-- ==== Sys2Proof/Word.lean ====
section
/-! DEFINITION. The value types of 00_scope.md R5: a word, a byte and a size. -/

namespace Sys2Proof

/-- A word: an unsigned integer in `[0, 2^32)` (R5, `WORD_BITS` of R4). -/
abbrev Word := BitVec 32

/-- A byte: an unsigned integer in `[0, 2^8)` (R5). -/
abbrev Byte := BitVec 8

/-- A size: an unsigned integer in `[0, 2^64)` (R5, `SIZE_BITS` of R4). -/
abbrev Size := BitVec 64

/-- The eight words of a hash state, `H[0..7]` (R10) or `IS[0..7]` (R16). -/
abbrev Hash := Vector Word 8

/-- The 64 words of a message schedule, `W[0..63]` (R11). -/
abbrev Schedule := Vector Word 64

/-- The 64 bytes of one block (`BLOCK_BYTES` of R4, the block view of R12). -/
abbrev Block := Vector Byte 64

end Sys2Proof
end

