-- ==== Sys2Proof/Machine/Functions.lean ====
section
/-! DEFINITION. The word functions, constants, length arithmetic and serialisers of 40_functions.md.
Every function is total; none sets a flag and none can fail. -/

namespace Sys2Proof.Machine

/-- `add32(x1, …, xn)`: addition modulo `2^32`, every carry discarded (R55). -/
def add32 (xs : List Word) : Word := xs.foldr (· + ·) 0

/-- `rotr(x, n)`: rotate right, for a constant `n` from 1 to 31 (R56). -/
def rotr (x : Word) (n : Nat) : Word := x.rotateRight n

/-- `shr(x, n)`: logical shift right, zeros entering at the top (R57). -/
def shr (x : Word) (n : Nat) : Word := x >>> n

/-- `ssig0`, the document's lower-case sigma 0 (R59). -/
def ssig0 (x : Word) : Word := rotr x 7 ^^^ rotr x 18 ^^^ shr x 3

/-- `ssig1`, the document's lower-case sigma 1 (R60). -/
def ssig1 (x : Word) : Word := rotr x 17 ^^^ rotr x 19 ^^^ shr x 10

/-- `bsig0`, the document's upper-case sigma 0 (R61). -/
def bsig0 (x : Word) : Word := rotr x 2 ^^^ rotr x 13 ^^^ rotr x 22

/-- `bsig1`, the document's upper-case sigma 1 (R62). -/
def bsig1 (x : Word) : Word := rotr x 6 ^^^ rotr x 11 ^^^ rotr x 25

/-- `ch(x, y, z)` (R63). -/
def ch (x y z : Word) : Word := (x &&& y) ^^^ (~~~x &&& z)

/-- `maj(x, y, z)` (R64). -/
def maj (x y z : Word) : Word := (x &&& y) ^^^ (x &&& z) ^^^ (y &&& z)

/-- Word `i` of a row of eight words, counted from the left as the tables of R65 and R66 print them. -/
def rowWord (row : BitVec 256) (i : Nat) : Word := row.extractLsb' (224 - 32 * i) 32

/-- Row `r` of the table of R65: the eight round constants `K[8r]` to `K[8r + 7]` side by side. The spec marks the values
as general knowledge; log entry 16. -/
def constantRow : Nat → BitVec 256
  | 0 => 0x428a2f9871374491b5c0fbcfe9b5dba53956c25b59f111f1923f82a4ab1c5ed5
  | 1 => 0xd807aa9812835b01243185be550c7dc372be5d7480deb1fe9bdc06a7c19bf174
  | 2 => 0xe49b69c1efbe47860fc19dc6240ca1cc2de92c6f4a7484aa5cb0a9dc76f988da
  | 3 => 0x983e5152a831c66db00327c8bf597fc7c6e00bf3d5a7914706ca635114292967
  | 4 => 0x27b70a852e1b21384d2c6dfc53380d13650a7354766a0abb81c2c92e92722c85
  | 5 => 0xa2bfe8a1a81a664bc24b8b70c76c51a3d192e819d6990624f40e3585106aa070
  | 6 => 0x19a4c1161e376c082748774c34b0bcb5391c0cb34ed8aa4a5b9cca4f682e6ff3
  | _ => 0x748f82ee78a5636f84c878148cc7020890befffaa4506cebbef9a3f7c67178f2

/-- The round constants `K[0..63]` (R65). -/
def K : Schedule := Vector.ofFn fun t => rowWord (constantRow (t.val / 8)) (t.val % 8)

/-- The initial vector `IV[0..7]`, the one row of the table of R66. The spec marks the values as general knowledge; log
entry 16. -/
def IV : Hash :=
  Vector.ofFn fun i => rowWord 0x6a09e667bb67ae853c6ef372a54ff53a510e527f9b05688c1f83d9ab5be0cd19 i.val

/-- `TERMINATOR` (R4): the byte placed after the last data byte. -/
def terminator : Byte := 0x80

/-- `IPAD` (R4): the inner pad byte. -/
def ipad : Byte := 0x36

/-- `OPAD` (R4): the outer pad byte. -/
def opad : Byte := 0x5c

/-- `DIGEST_BYTES` (R4): the bytes of a full digest. -/
def digestBytes : Nat := 32

/-- `KEY_BLOCK_BYTES` (R4): a longer key is hashed first (R100). -/
def keyBlockBytes : Nat := 64

/-- `MAX_TOTAL` (R4, 90_conflicts.md C7): the largest `L + O` whose bit count fits the trailer. -/
def maxTotal : Nat := 2 ^ 61 - 1

/-- `nblocks(L) = ceil((L + 9) / 64)`, on naturals (R67, R80). -/
def nblocks (L : Nat) : Nat := (L + 72) / 64

/-- `bitlen(L, O) = (L + O) * 8`, on naturals (R67). -/
def bitlen (L O : Nat) : Nat := (L + O) * 8

/-- `be32(b0, b1, b2, b3)`: the first byte is the most significant (R68, R32). -/
def be32 (b0 b1 b2 b3 : Byte) : Word := b0 ++ b1 ++ b2 ++ b3

/-- Byte `m` of a word, the most significant first: `w[31 − 8m : 24 − 8m]` (R68, R91). -/
def byteOfWord (w : Word) (m : Nat) : Byte := w.extractLsb' (24 - 8 * m) 8

/-- `bytes32(w)`: the four bytes of a word, the most significant first (R68). -/
def bytes32 (w : Word) : Vector Byte 4 := Vector.ofFn fun m => byteOfWord w m.val

/-- Byte `k` of a 64-bit value, the most significant first: `v[63 − 8k : 56 − 8k]` (R33, R68). -/
def byteOfSize (v : Size) (k : Nat) : Byte := v.extractLsb' (56 - 8 * k) 8

/-- `bytes64(v)`: the eight trailer bytes (R68, R33). -/
def bytes64 (v : Size) : Vector Byte 8 := Vector.ofFn fun k => byteOfSize v k.val

end Sys2Proof.Machine
end

