-- ==== Sys2Proof/Config.lean ====
section
/-! DEFINITION. What one implementation fixes (the OPEN parameters of 00_scope.md R4) and the values the spec leaves
unspecified (93_implementation_defined.md part 2). -/

namespace Sys2Proof

/-- The value the hardware happens to have where the spec gives none: a free value of `w` bits.
It has no body: no proof can learn anything about it, so a theorem holds whatever it is.
`draw` numbers the occasions on which a value was left open (`State.draws` counts them), `place` the element concerned.
DESIGN CHOICE, log entry 3. -/
opaque Config.freeValue (w : Nat) (draw place : Nat) : BitVec w

/-- The OPEN parameters of R4: how many bytes the platform has bound to each buffer space (R31), and where on its bus it
has put the registers. They are arguments of the model: plain data, carried by the state, changed by no step. Log entry
5. -/
structure Config.Platform where
  /-- `DATA_CAP`: readable bytes of DATA. -/
  dataCap : Nat
  /-- `KEY_CAP`: readable bytes of KEY. -/
  keyCap : Nat
  /-- `OUT_CAP`: writable bytes of OUT. -/
  outCap : Nat
  /-- `REG_BINDING`: the bus address of each register index (92_eei_decisions.md D2). Log entry 17. -/
  regBinding : Vector Nat 128
deriving DecidableEq, Repr

/-- What D2 asks of `REG_BINDING`: it is injective on the indices 0 to 127. -/
def Config.Platform.bindingOk (p : Config.Platform) : Prop :=
  ∀ (i j : Nat) (hi : i < 128) (hj : j < 128), p.regBinding[i] = p.regBinding[j] → i = j

end Sys2Proof
end

