-- ==== Sys2Proof/Syntax.lean ====
section
/-! DEFINITION. The six commands of 30_encoding.md R46, one constructor per row of spec/opcode_table.json.
A command word carries no operand (R45, R47), so no constructor has an argument. -/

namespace Sys2Proof

/-- The commands of R46, in the order of their codes `0x01` to `0x06`. -/
inductive Instr where
  /-- `LOAD_IV`: set the hash state to the initial vector (R90). -/
  | loadIv
  /-- `COMPRESS`: one compression of the block in `W[0..15]` (R75). -/
  | compress
  /-- `PROCESS`: a padder run over DATA from the state in `H` (R84). -/
  | process
  /-- `STORE_DIGEST`: write the first bytes of the serialised `H` to OUT (R92). -/
  | storeDigest
  /-- `HASH`: SHA-256 of DATA, truncated to `OUT_LEN` (R93). -/
  | hash
  /-- `HMAC`: HMAC-SHA256 of DATA under KEY, truncated to `OUT_LEN` (R104). -/
  | hmac
deriving DecidableEq, Repr

end Sys2Proof
end

