-- ==== Sys2Proof/Machine/State.lean ====
section
/-! DEFINITION. The state of SHA256-CORE: everything 10_state.md and 20_memory.md name, the host actions still to come,
and the state after reset. -/

namespace Sys2Proof.Machine

/-- The three buffer spaces of R30. -/
inductive Space where
  | data
  | key
  | out
deriving DecidableEq, Repr

/-- The bytes of one buffer space: `(index, byte)` cells with strictly rising indexes, none holding the byte an unlisted
index reads as. -/
abbrev Memory := List Host.Cell

/-- What an unlisted index of a buffer space reads as. The spec gives the spaces no content at power-up (R27, R31).
DESIGN CHOICE, unsafe, log entry 6. -/
def blankByte : Byte := 0x00

/-- The working words `a, b, c, d, e, f, g, h` = `V[0..7]` (R13). -/
structure Working where
  a : Word
  b : Word
  c : Word
  d : Word
  e : Word
  f : Word
  g : Word
  h : Word
deriving DecidableEq, Repr

/-- The latched operation values of R18, with their widths. -/
structure Latches where
  /-- Length in bytes of the byte sequence of the current padder run. -/
  L : Size
  /-- Offset in bytes added to `L` for the trailer. -/
  O : Size
  /-- Block count of the current padder run; 56 bits (90_conflicts.md C11). -/
  N : BitVec 56
  /-- Index of the block being processed. -/
  I : BitVec 56
  /-- Bytes of the sequence consumed so far. -/
  CNT : Size
  /-- Latched `OUT_LEN`. -/
  OLEN : Size
  /-- Latched `KEY_LEN`. -/
  KLEN : Size
  /-- Latched `DATA_LEN`. -/
  DLEN : Size
deriving DecidableEq, Repr

/-- `PHASE` of the sequencer (R19, R105). -/
inductive Phase where
  | idle
  | keyHash
  | keyBlock
  | innerKey
  | innerData
  | outerKey
  | outerData
  | msg
  | store
deriving DecidableEq, Repr

/-- `STEP` of the sequencer (R19). -/
inductive EngineStep where
  | fill
  | expand
  | init
  | round
  | feed
deriving DecidableEq, Repr

/-- The sequencer position `SEQ = (OP, PHASE, STEP, T)` (R19); `OP = NONE` is `none`. -/
structure Seq where
  op : Option Instr
  phase : Phase
  step : EngineStep
  t : Nat
deriving DecidableEq, Repr

/-- `(NONE, IDLE, FILL, 0)` (R19, R27). -/
def Seq.rest : Seq := ⟨none, .idle, .fill, 0⟩

/-- A DATA or KEY byte the host wrote while `BUSY = 1` and the byte the engine sees there (R145). Log entry 8. -/
structure Race where
  space : Space
  index : Nat
  seen : Byte
deriving DecidableEq, Repr

/-- A register access as the host makes it on its bus: one access moves one whole 32-bit register
(92_eei_decisions.md D2). A write comes in the two forms of the moves `write` and `start`. -/
inductive BusAccess where
  | write (v : Word)
  | start (v : Word)
  | read
deriving DecidableEq, Repr

/-- One move of a run, in the order they happen: the host actions of R50 and R156, and the engine's turns (R7). -/
inductive Move where
  /-- `WR`: one register write (R23). A write that issues a command is followed by the whole command, as one atomic step
  (R150): the host does nothing before completion. -/
  | write (n : BitVec 7) (v : Word)
  /-- The register write `R[0] <- v` of a host that may act again before the command has completed: the command is
  accepted and `BUSY = 1` is left standing (R45, R150). Log entry 1. -/
  | start (v : Word)
  /-- The engine takes one engine step of the command in flight, if there is one (R7, R153). -/
  | engine
  /-- `RD`: one register read (R23). -/
  | read (n : BitVec 7)
  /-- The register access a host makes by bus address: `REG_BINDING` says which register it names (R4, R23). Log
  entry 17. -/
  | bus (addr : Nat) (acc : BusAccess)
  /-- One byte of a `LOAD`: the host writes a byte of a buffer space (R30). -/
  | poke (sp : Space) (a : Nat) (b : Byte)
  /-- One byte of a `DUMP`: the host reads a byte of OUT (R30). -/
  | peek (a : Nat)
  /-- `WAIT`: the host reads `STATUS` until `DONE = 1` or `FAULT = 1`; the engine moves meanwhile (R50). -/
  | wait
  /-- `RESET` (R140). -/
  | reset
deriving DecidableEq, Repr

/-- The machine's state. -/
structure State where
  /-- `H[0..7]` (R10). -/
  H : Hash
  /-- `W[0..63]` (R11); the block view `BLK` is its first 16 words (R12). -/
  W : Schedule
  /-- `V[0..7]`, hidden (R13). -/
  V : Working
  /-- `KB[0..63]`, hidden (R15). -/
  KB : Block
  /-- `IS[0..7]`, hidden (R16). -/
  IS : Hash
  /-- `DATA_LEN` (R17). -/
  dataLen : Size
  /-- `KEY_LEN` (R17). -/
  keyLen : Size
  /-- `OUT_LEN` (R17). -/
  outLen : Size
  /-- `OFFSET` (R17). -/
  offset : Size
  /-- `L, O, N, I, CNT, OLEN, KLEN, DLEN`, hidden (R18). -/
  latch : Latches
  /-- `SEQ`, hidden (R19). -/
  seq : Seq
  /-- `STATUS.BUSY` (R21). -/
  busy : Bool
  /-- `STATUS.DONE` (R21). -/
  done : Bool
  /-- `STATUS.FAULT` (R21). -/
  fault : Bool
  /-- `FAULT_CAUSE.CAUSE` (R22). -/
  cause : BitVec 3
  /-- The DATA space (R30). -/
  data : Memory
  /-- The KEY space (R30). -/
  key : Memory
  /-- The OUT space (R30). -/
  out : Memory
  /-- The OPEN parameters: the capacities and `REG_BINDING` (R4, R31). -/
  platform : Config.Platform
  /-- The moves still to come (R155). The model's own field, log entry 2. -/
  host : List Move
  /-- What the host's last register read returned. The model's own field, log entry 7. -/
  regRead : Word
  /-- What the host's last OUT read returned. The model's own field, log entry 7. -/
  byteRead : Byte
  /-- The bytes raced with the engine (R145). The model's own field, log entry 8. -/
  raced : List Race
  /-- How many free values have been drawn. The model's own field, log entry 3. -/
  draws : Nat
deriving DecidableEq, Repr

/-- The five causes of the block's own fault mechanism (R120). Entering that mechanism is a NEXT state
(Machine/Ops.lean, `raise`); it is not a stop of the model. -/
inductive Cause where
  | illegalCmd
  | accessWhileBusy
  | lengthRange
  | bufferRange
  | illegalAccess
deriving DecidableEq, Repr

/-- The machine stops without a next state. -/
inductive Fault where
  /-- The host reads or writes a buffer byte at or above the space's capacity, which R30 says does not exist.
  Raised by the moves `poke` and `peek` only. Safe: nothing is claimed of such a host. Log entry 11. -/
  | noSuchByte (sp : Space) (a : Nat)
deriving DecidableEq, Repr

/-- A move that has no meaning in the model. -/
inductive Refusal where
  /-- The instruction has no meaning yet. Raised by no arm of `exec`. -/
  | notModelled (mnemonic : String)
  /-- The host writes a byte of OUT while a command is in flight: R145 forbids it and gives no effect, and
  93_implementation_defined.md U4 lets a model refuse the move. Raised by the move `poke` only. Safe. Log entry 10. -/
  | outWriteWhileBusy
  /-- The host's bus access names an address no register of the block is bound to, so it is none of the block's register
  accesses (R23, 92_eei_decisions.md D2). Raised by the move `bus` only. Safe. Log entry 17. -/
  | noRegisterAt (addr : Nat)
deriving DecidableEq, Repr

/-! Free values for the datapath elements. The places follow the register index map of R23 for `H` and `W`, and go on
above it for the hidden elements. -/

/-- Free values for `H` (places 16 to 23). -/
def freeHash (draw : Nat) : Hash := Vector.ofFn fun i => Config.freeValue 32 draw (16 + i.val)

/-- Free values for `W` (places 32 to 95). -/
def freeSchedule (draw : Nat) : Schedule := Vector.ofFn fun t => Config.freeValue 32 draw (32 + t.val)

/-- Free values for `V` (places 128 to 135). -/
def freeWorking (draw : Nat) : Working :=
  let word (i : Nat) := Config.freeValue 32 draw (128 + i)
  ⟨word 0, word 1, word 2, word 3, word 4, word 5, word 6, word 7⟩

/-- Free values for `KB` (places 136 to 199). -/
def freeKeyBlock (draw : Nat) : Block := Vector.ofFn fun j => Config.freeValue 8 draw (136 + j.val)

/-- Free values for `IS` (places 200 to 207). -/
def freeInner (draw : Nat) : Hash := Vector.ofFn fun i => Config.freeValue 32 draw (200 + i.val)

/-- Free values for the latched operation values (places 208 to 215). -/
def freeLatches (draw : Nat) : Latches where
  L := Config.freeValue 64 draw 208
  O := Config.freeValue 64 draw 209
  N := Config.freeValue 56 draw 210
  I := Config.freeValue 56 draw 211
  CNT := Config.freeValue 64 draw 212
  OLEN := Config.freeValue 64 draw 213
  KLEN := Config.freeValue 64 draw 214
  DLEN := Config.freeValue 64 draw 215

/-- The platform of the reset state: the capacities of 95_test_vectors.md part 2.6 (log entry 5) and register `n` at bus
address `4 n` (log entry 17). -/
def resetPlatform : Config.Platform := ⟨256, 256, 40, Vector.ofFn fun n => 4 * n.val⟩

/-- The machine after reset (R27): control and operand registers zero, `SEQ` at rest, the datapath registers unspecified
(free values, log entry 4), the buffer spaces blank (log entry 6), a platform (log entries 5 and 17), and no host action pending (log entry 2). -/
def State.reset : State where
  H := freeHash 0
  W := freeSchedule 0
  V := freeWorking 0
  KB := freeKeyBlock 0
  IS := freeInner 0
  dataLen := 0
  keyLen := 0
  outLen := 0
  offset := 0
  latch := freeLatches 0
  seq := Seq.rest
  busy := false
  done := false
  fault := false
  cause := 0
  data := []
  key := []
  out := []
  platform := resetPlatform
  host := []
  regRead := 0
  byteRead := 0
  raced := []
  draws := 1

end Sys2Proof.Machine
end

