-- ==== Sys2Proof/Machine/Flags.lean ====
section
/-! DEFINITION. The status bits and the fault cause as the host reads them (10_state.md R21, R22), the three ways they
change, and the outputs that copy them (60_exceptions.md R129). The datapath has no flags (R25). -/

namespace Sys2Proof.Machine

/-- The code `FAULT_CAUSE.CAUSE` records (R120). -/
def causeCode : Cause → BitVec 3
  | .illegalCmd => 1
  | .accessWhileBusy => 2
  | .lengthRange => 3
  | .bufferRange => 4
  | .illegalAccess => 5

/-- One status bit as a bit vector. -/
def flagBit (b : Bool) : BitVec 1 := BitVec.ofBool b

/-- `STATUS` as read: bits 31:3 zero, bit 2 `FAULT`, bit 1 `DONE`, bit 0 `BUSY` (R21). -/
def statusWord (s : State) : Word := (0 : BitVec 29) ++ flagBit s.fault ++ flagBit s.done ++ flagBit s.busy

/-- `FAULT_CAUSE` as read: bits 31:3 zero, bits 2:0 `CAUSE` (R22). -/
def causeWord (s : State) : Word := (0 : BitVec 29) ++ s.cause

/-- The level output `done` (R129). -/
def doneOutput (s : State) : Bool := s.done

/-- The level output `fault` (R129). -/
def faultOutput (s : State) : Bool := s.fault

/-- "Idle" of R23: `BUSY = 0` and `FAULT = 0`. -/
def isIdle (s : State) : Bool := !s.busy && !s.fault

/-- Acceptance of a command: `DONE <- 0`, `BUSY <- 1` (R45). -/
def markAccepted (s : State) : State := { s with done := false, busy := true }

/-- Completion of a command: `BUSY <- 0`, `DONE <- 1`, `SEQ` to rest (R45). -/
def markCompleted (s : State) : State := { s with busy := false, done := true, seq := Seq.rest }

/-- The bits fault entry writes, and `SEQ` to rest (R127). -/
def markFaulted (c : Cause) (s : State) : State :=
  { s with cause := causeCode c, fault := true, busy := false, done := false, seq := Seq.rest }

end Sys2Proof.Machine
end

