-- ==== Sys2Proof/Machine/Ops.lean ====
section
/-! DEFINITION. The named operations over the buffer spaces, fault entry, reset, and what a command leaves unspecified. -/

namespace Sys2Proof.Machine

/-! ## Buffer spaces (20_memory.md) -/

/-- The byte at an index; an unlisted index reads as `blankByte`. -/
def Memory.read : Memory → Nat → Byte
  | [], _ => blankByte
  | (k, v) :: m, a => if a = k then v else Memory.read m a

/-- Write one byte, keeping the cells in rising order and free of blank bytes. -/
def Memory.write : Memory → Nat → Byte → Memory
  | [], a, b => if b = blankByte then [] else [(a, b)]
  | (k, v) :: m, a, b =>
    if a < k then (if b = blankByte then (k, v) :: m else (a, b) :: (k, v) :: m)
    else if a = k then (if b = blankByte then m else (k, b) :: m)
    else (k, v) :: Memory.write m a b

/-- Every cell of the list lies at or above `lo`, below the cells after it, and holds a byte other than `blankByte`. -/
def Memory.wfFrom : Nat → Memory → Bool
  | _, [] => true
  | lo, (k, v) :: m => decide (lo ≤ k) && decide (v ≠ blankByte) && Memory.wfFrom (k + 1) m

/-- The canonical form: indexes strictly rising, no blank byte listed. -/
def Memory.wf (m : Memory) : Bool := Memory.wfFrom 0 m

/-- Byte writes at `a`, `a + 1`, … in increasing index order (R37). -/
def Memory.writeBytes : Memory → Nat → List Byte → Memory
  | m, _, [] => m
  | m, a, b :: bs => Memory.writeBytes (Memory.write m a b) (a + 1) bs

/-- The contents of one of the three disjoint spaces (R30, R44). -/
def spaceBytes (s : State) : Space → Memory
  | .data => s.data
  | .key => s.key
  | .out => s.out

/-- The capacity of a space (R31). -/
def capacity (p : Config.Platform) : Space → Nat
  | .data => p.dataCap
  | .key => p.keyCap
  | .out => p.outCap

/-- Write one byte of one space; the other two keep every byte (R44). -/
def writeByte (sp : Space) (a : Nat) (b : Byte) (s : State) : State :=
  match sp with
  | .data => { s with data := s.data.write a b }
  | .key => { s with key := s.key.write a b }
  | .out => { s with out := s.out.write a b }

/-- The byte a raced write left for the engine, if the host has written that byte since acceptance (R145). -/
def racedByte : List Race → Space → Nat → Option Byte
  | [], _, _ => none
  | r :: rs, sp, a => if r.space = sp ∧ r.index = a then some r.seen else racedByte rs sp a

/-- `MemRead(sp, a, 1)` of the engine (R6, R36). -/
def engineByte (s : State) (sp : Space) (a : Nat) : Byte :=
  match racedByte s.raced sp a with
  | some b => b
  | none => (spaceBytes s sp).read a

/-! ## Which commands touch what (the table of 30_encoding.md R47) -/

/-- The commands that run `compress_block` (R109) and so leave `V` unspecified (R13). -/
def usesEngine : Instr → Bool
  | .compress | .process | .hash | .hmac => true
  | .loadIv | .storeDigest => false

/-- The commands with a padder run, which leave every `W[t]` unspecified (R11, R147). -/
def runsPadder : Instr → Bool
  | .process | .hash | .hmac => true
  | .loadIv | .compress | .storeDigest => false

/-- The commands that latch an operand (R47); outside a command the latches are unspecified (R18). -/
def latchesOperands : Instr → Bool
  | .process | .storeDigest | .hash | .hmac => true
  | .loadIv | .compress => false

/-- The commands that store a digest (R37). -/
def storesDigest : Instr → Bool
  | .storeDigest | .hash | .hmac => true
  | .loadIv | .compress | .process => false

/-! ## The end of a command -/

/-- What a completing command leaves unspecified becomes a free value: `V`, `W` and the latches, as far as the command
used them (R11, R13, R18, R47). One draw. Log entry 12. -/
def release (i : Instr) (s : State) : State :=
  { s with
    V := if usesEngine i then freeWorking s.draws else s.V
    W := if runsPadder i then freeSchedule s.draws else s.W
    latch := if latchesOperands i then freeLatches s.draws else s.latch
    raced := []
    draws := s.draws + 1 }

/-- Completion of command `i` (R45). -/
def finish (i : Instr) (s : State) : State := markCompleted (release i s)

/-- `STORE`: the given bytes go to OUT from index 0 up (R92, R37). -/
def storeOut (bytes : List Byte) (s : State) : State := { s with out := s.out.writeBytes 0 bytes }

/-! ## Abandoning a command, taking a fault, reset -/

/-- How many bytes of OUT the command in flight may have been writing: `min(OLEN, 32)` for a command that stores. -/
def outInFlight (s : State) : Nat :=
  match s.seq.op with
  | some i => if s.busy && storesDigest i then min s.latch.OLEN.toNat 32 else 0
  | none => 0

/-- Free values for `n` bytes of OUT (places from 256 up). -/
def freeOut (draw n : Nat) : List Byte := (List.range n).map fun a => Config.freeValue 8 draw (256 + a)

/-- What a command abandoned in flight leaves unspecified becomes a free value: `H`, `W`, `V`, `KB`, `IS`, the latches
and the bytes of OUT it might have been writing (R127, R140, R18). One draw. Log entry 13. -/
def abandon (s : State) : State :=
  { s with
    H := freeHash s.draws
    W := freeSchedule s.draws
    V := freeWorking s.draws
    KB := freeKeyBlock s.draws
    IS := freeInner s.draws
    latch := freeLatches s.draws
    out := s.out.writeBytes 0 (freeOut s.draws (outInFlight s))
    raced := []
    draws := s.draws + 1 }

/-- `raise Fault(c)`, the one exceptional outcome (R127): the cause is recorded, `FAULT` is set, `BUSY` and `DONE` are
cleared, `SEQ` goes to rest, and a command in flight is abandoned. Nothing else is saved and control goes nowhere. -/
def raise (c : Cause) (s : State) : State := markFaulted c (if s.busy then abandon s else s)

/-- `RESET`, in any state (R140, R27): the only way out of the faulted state (R128). The buffer spaces and the platform
are not touched, but for the OUT bytes of a command in flight; the host's side of the interface is not the block's. -/
def applyReset (s : State) : State :=
  { s with
    H := freeHash s.draws
    W := freeSchedule s.draws
    V := freeWorking s.draws
    KB := freeKeyBlock s.draws
    IS := freeInner s.draws
    dataLen := 0
    keyLen := 0
    outLen := 0
    offset := 0
    latch := freeLatches s.draws
    seq := Seq.rest
    busy := false
    done := false
    fault := false
    cause := 0
    out := s.out.writeBytes 0 (freeOut s.draws (outInFlight s))
    raced := []
    draws := s.draws + 1 }

end Sys2Proof.Machine
end

