-- ==== Sys2Proof/Machine/Operands.lean ====
section
/-! DEFINITION. The register index map and its access rules (10_state.md R23), operand pairs (20_memory.md R34), operand
assembly, the two checks and the acceptance of a command (30_encoding.md R45, R47). -/

namespace Sys2Proof.Machine

/-! ## The register map -/

/-- The four 64-bit operand registers (R17). -/
inductive Operand where
  | dataLen
  | keyLen
  | outLen
  | offset
deriving DecidableEq, Repr

/-- The two halves of an operand register: `_LO` holds bits 31:0, `_HI` bits 63:32 (R34). -/
inductive Half where
  | lo
  | hi
deriving DecidableEq, Repr

/-- The named registers of R23. -/
inductive Reg where
  | cmd
  | status
  | faultCause
  | operand (o : Operand) (h : Half)
  | hash (i : Fin 8)
  | sched (t : Fin 64)
deriving DecidableEq, Repr

/-- The register at an index; a reserved index is `none` (R23). -/
def regAt (n : BitVec 7) : Option Reg :=
  let k := n.toNat
  if k = 0 then some .cmd
  else if k = 1 then some .status
  else if k = 2 then some .faultCause
  else if k = 4 then some (.operand .dataLen .lo)
  else if k = 5 then some (.operand .dataLen .hi)
  else if k = 6 then some (.operand .keyLen .lo)
  else if k = 7 then some (.operand .keyLen .hi)
  else if k = 8 then some (.operand .outLen .lo)
  else if k = 9 then some (.operand .outLen .hi)
  else if k = 10 then some (.operand .offset .lo)
  else if k = 11 then some (.operand .offset .hi)
  else if h : 16 ≤ k ∧ k < 24 then some (.hash ⟨k - 16, by omega⟩)
  else if h : 32 ≤ k ∧ k < 96 then some (.sched ⟨k - 32, by omega⟩)
  else none

/-- The index of a register (R23). -/
def indexOf : Reg → BitVec 7
  | .cmd => 0
  | .status => 1
  | .faultCause => 2
  | .operand .dataLen .lo => 4
  | .operand .dataLen .hi => 5
  | .operand .keyLen .lo => 6
  | .operand .keyLen .hi => 7
  | .operand .outLen .lo => 8
  | .operand .outLen .hi => 9
  | .operand .offset .lo => 10
  | .operand .offset .hi => 11
  | .hash i => BitVec.ofNat 7 (16 + i.val)
  | .sched t => BitVec.ofNat 7 (32 + t.val)

/-- The 64-bit value of an operand register. -/
def operandValue (s : State) : Operand → Size
  | .dataLen => s.dataLen
  | .keyLen => s.keyLen
  | .outLen => s.outLen
  | .offset => s.offset

/-- One half of a 64-bit value. -/
def halfOf (v : Size) : Half → Word
  | .lo => v.extractLsb' 0 32
  | .hi => v.extractLsb' 32 32

/-- A 64-bit value with one half replaced; the value is `HI ‖ LO` (R34). -/
def withHalf (v : Size) (h : Half) (w : Word) : Size :=
  match h with
  | .lo => halfOf v .hi ++ w
  | .hi => w ++ halfOf v .lo

/-- An operand register with a new value. -/
def setOperand (o : Operand) (v : Size) (s : State) : State :=
  match o with
  | .dataLen => { s with dataLen := v }
  | .keyLen => { s with keyLen := v }
  | .outLen => { s with outLen := v }
  | .offset => { s with offset := v }

/-- The value of a register: `CMD` reads as 0 (R20), the read-only ones are assembled, the RW ones are state. -/
def regValue (r : Reg) (s : State) : Word :=
  match r with
  | .cmd => 0
  | .status => statusWord s
  | .faultCause => causeWord s
  | .operand o h => halfOf (operandValue s o) h
  | .hash i => s.H[i.val]
  | .sched t => s.W[t.val]

/-- The access class RW of R23. -/
def isReadWrite : Reg → Bool
  | .operand _ _ | .hash _ | .sched _ => true
  | .cmd | .status | .faultCause => false

/-- What a read of index `n` returns (R23 items 1 to 3). An RW register read while `BUSY = 1` or `FAULT = 1` returns an
unspecified value: a free value at place `512 + n`. -/
def readValue (n : BitVec 7) (s : State) : Word :=
  match regAt n with
  | none => 0
  | some r =>
    if isReadWrite r && !isIdle s then Config.freeValue 32 s.draws (512 + n.toNat) else regValue r s

/-- `RD`: the host gets the value; no read has a side effect on the block and none faults (R23 item 4). -/
def readRegister (n : BitVec 7) (s : State) : State :=
  { s with regRead := readValue n s, draws := s.draws + 1 }

/-- An RW register takes the written word (R23 item 8); the other registers are not written this way. -/
def setRegister (r : Reg) (v : Word) (s : State) : State :=
  match r with
  | .operand o h => setOperand o (withHalf (operandValue s o) h v) s
  | .hash i => { s with H := s.H.set i.val v }
  | .sched t => { s with W := s.W.set t.val v }
  | .cmd | .status | .faultCause => s

/-- A register write that issues no command (R23 items 5, 6, 8, 9; R126). Index 0 comes here with an illegal word only:
the legal ones are commands and go to `exec`. -/
def writeRegister (n : BitVec 7) (v : Word) (s : State) : State :=
  if s.fault then s
  else if s.busy then raise .accessWhileBusy s
  else
    match regAt n with
    | some .cmd => raise .illegalCmd s
    | some .status => raise .illegalAccess s
    | some .faultCause => raise .illegalAccess s
    | none => raise .illegalAccess s
    | some r => setRegister r v s

/-! ## Acceptance -/

/-- The latches a command copies its operands into when it is accepted (R47). -/
def latchOperands (i : Instr) (s : State) : Latches :=
  match i with
  | .loadIv => s.latch
  | .compress => s.latch
  | .process => { s.latch with DLEN := s.dataLen, O := s.offset }
  | .storeDigest => { s.latch with OLEN := s.outLen }
  | .hash => { s.latch with DLEN := s.dataLen, OLEN := s.outLen }
  | .hmac => { s.latch with KLEN := s.keyLen, DLEN := s.dataLen, OLEN := s.outLen }

/-- The length check, on unbounded naturals (R87). -/
def lengthOk (i : Instr) (l : Latches) : Bool :=
  match i with
  | .loadIv => true
  | .compress => true
  | .storeDigest => true
  | .process => decide (l.DLEN.toNat + l.O.toNat ≤ maxTotal)
  | .hash => decide (l.DLEN.toNat ≤ maxTotal)
  | .hmac => decide (l.DLEN.toNat + 64 ≤ maxTotal) && decide (l.KLEN.toNat ≤ maxTotal)

/-- The range check (R38); the OUT check uses `OUT_LEN` itself. -/
def rangeOk (i : Instr) (p : Config.Platform) (l : Latches) : Bool :=
  match i with
  | .loadIv => true
  | .compress => true
  | .process => decide (l.DLEN.toNat ≤ p.dataCap)
  | .storeDigest => decide (l.OLEN.toNat ≤ p.outCap)
  | .hash => decide (l.DLEN.toNat ≤ p.dataCap) && decide (l.OLEN.toNat ≤ p.outCap)
  | .hmac =>
    decide (l.DLEN.toNat ≤ p.dataCap) && decide (l.KLEN.toNat ≤ p.keyCap) && decide (l.OLEN.toNat ≤ p.outCap)

/-- The start of a padder run: `L`, `O`, `N <- nblocks(L)`, `I <- 0`, `CNT <- 0` (R83). -/
def beginRun (L O : Nat) (l : Latches) : Latches :=
  { l with
    L := BitVec.ofNat 64 L
    O := BitVec.ofNat 64 O
    N := BitVec.ofNat 56 (nblocks L)
    I := 0
    CNT := 0 }

/-- `seq <- first step of the command`, and the start of its first padder run if it begins with one (R75, R84, R90, R92,
R93, R104). `LOAD_IV` stays in phase `IDLE` (R105). -/
def enterFirst (i : Instr) (s : State) : State :=
  match i with
  | .loadIv => { s with seq := ⟨some .loadIv, .idle, .fill, 0⟩ }
  | .compress => { s with seq := ⟨some .compress, .msg, .expand, 16⟩ }
  | .process =>
    { s with
      seq := ⟨some .process, .msg, .fill, 0⟩
      latch := beginRun s.latch.DLEN.toNat s.latch.O.toNat s.latch }
  | .storeDigest => { s with seq := ⟨some .storeDigest, .store, .fill, 0⟩ }
  | .hash =>
    { s with
      seq := ⟨some .hash, .msg, .fill, 0⟩
      latch := beginRun s.latch.DLEN.toNat 0 s.latch }
  | .hmac =>
    if keyBlockBytes < s.latch.KLEN.toNat then
      { s with
        seq := ⟨some .hmac, .keyHash, .fill, 0⟩
        latch := beginRun s.latch.KLEN.toNat 0 s.latch }
    else { s with seq := ⟨some .hmac, .keyBlock, .fill, 0⟩ }

/-- The state a command is accepted into: operands latched, `DONE = 0`, `BUSY = 1`, `SEQ` at the first step (R45). -/
def accept (i : Instr) (s : State) : State :=
  enterFirst i (markAccepted { s with latch := latchOperands i s, raced := [] })

/-- The issue sequence of R45 for a legal word, with the priority of R126: a write in the faulted state is ignored, one
while busy faults, then the length check and the range check; `run` is what follows acceptance. -/
def issue (i : Instr) (run : State → State) (s : State) : Host.Outcome State Fault Refusal :=
  if s.fault then .next s
  else if s.busy then .next (raise .accessWhileBusy s)
  else if !lengthOk i (latchOperands i s) then .next (raise .lengthRange s)
  else if !rangeOk i s.platform (latchOperands i s) then .next (raise .bufferRange s)
  else .next (run (accept i s))

end Sys2Proof.Machine
end

