-- ==== Sys2Proof/Machine/Compress.lean ====
section
/-! DEFINITION. The compression engine of 41_compress.md: schedule expansion, working words, rounds, feed-forward,
the compression function `CB` and the command `COMPRESS`. -/

namespace Sys2Proof.Machine

/-- The block view of R12: the first 16 schedule words become the big-endian words of the block's 64 bytes (R32);
the words above them keep their values. -/
def loadBlock (B : Block) (w : Schedule) : Schedule :=
  Vector.ofFn fun t =>
    if h : t.val < 16 then
      be32 B[4 * t.val] B[4 * t.val + 1] B[4 * t.val + 2] B[4 * t.val + 3]
    else w[t.val]

/-- One expansion assignment `W[t] <- add32(W[t-16], W[t-7], ssig0(W[t-15]), ssig1(W[t-2]))`, `16 ≤ t < 64` (R70). -/
def expandAt (w : Schedule) (t : Nat) : Schedule :=
  if h : 16 ≤ t ∧ t < 64 then
    w.set t (add32 [w[t - 16], w[t - 7], ssig0 w[t - 15], ssig1 w[t - 2]])
  else w

/-- `n` expansion assignments, from index `t` upwards. -/
def expandFrom : Nat → Nat → Schedule → Schedule
  | 0, _, w => w
  | n + 1, t, w => expandFrom n (t + 1) (expandAt w t)

/-- `EXPAND`: the 48 assignments for `t = 16, …, 63` (R70). -/
def expand (w : Schedule) : Schedule := expandFrom 48 16 w

/-- `INIT`: the working words are a copy of the state (R71). -/
def initWorking (S : Hash) : Working := ⟨S[0], S[1], S[2], S[3], S[4], S[5], S[6], S[7]⟩

/-- `ROUND` with round constant `k` and schedule word `w`: all eight writes read the old working words (R72). -/
def roundWith (k w : Word) (v : Working) : Working :=
  let T1 := add32 [v.h, bsig1 v.e, ch v.e v.f v.g, k, w]
  let T2 := add32 [bsig0 v.a, maj v.a v.b v.c]
  { h := v.g, g := v.f, f := v.e, e := add32 [v.d, T1], d := v.c, c := v.b, b := v.a, a := add32 [T1, T2] }

/-- `ROUND(t)`, `0 ≤ t < 64`: the round with `K[t]` and `W[t]` (R72). -/
def roundAt (w : Schedule) (t : Nat) (v : Working) : Working :=
  if h : t < 64 then roundWith K[t] w[t] v else v

/-- `n` rounds, from round `t` upwards. -/
def roundsFrom (w : Schedule) : Nat → Nat → Working → Working
  | 0, _, v => v
  | n + 1, t, v => roundsFrom w n (t + 1) (roundAt w t v)

/-- `FEED`: the word-wise addition of the working words to the state (R73). -/
def feed (S : Hash) (v : Working) : Hash := #v[
  add32 [S[0], v.a], add32 [S[1], v.b], add32 [S[2], v.c], add32 [S[3], v.d],
  add32 [S[4], v.e], add32 [S[5], v.f], add32 [S[6], v.g], add32 [S[7], v.h]]

/-- What `compress_block` leaves in `H`, `W` and `V`. -/
structure Compressed where
  H : Hash
  W : Schedule
  V : Working
deriving DecidableEq, Repr

/-- `compress_block`: `EXPAND`, `INIT`, `ROUND(0)` to `ROUND(63)`, `FEED` (R74). -/
def compressBlock (S : Hash) (w : Schedule) : Compressed :=
  let w' := expand w
  let v := roundsFrom w' 64 0 (initWorking S)
  ⟨feed S v, w', v⟩

/-- The schedule a block is loaded into when only the new state matters: by R76 the words above the first 16 do not. -/
def scratchSchedule : Schedule := Vector.replicate 64 0

/-- `CB(S, B)`: the state `compress_block` leaves when it starts with `H = S` and `BLK = B` (R74). -/
def CB (S : Hash) (B : Block) : Hash := (compressBlock S (loadBlock B scratchSchedule)).H

/-- What `COMPRESS` does from acceptance to completion: one compression of the block in `W[0..15]` from the state in `H`
(R75). -/
def runCompress (s : State) : State :=
  let c := compressBlock s.H s.W
  finish .compress { s with H := c.H, W := c.W, V := c.V }

/-- `COMPRESS` (R75). -/
def execCompress (s : State) : Host.Outcome State Fault Refusal := issue .compress runCompress s

end Sys2Proof.Machine
end

