-- ==== Sys2Proof/Machine/Padder.lean ====
section
/-! DEFINITION. The padder of 42_padder.md: padded blocks, the block sequence, the padder run `PS`
and the command `PROCESS`. -/

namespace Sys2Proof.Machine

/-- `PB(src, L, O, i)[j]`: byte `j` of block `i` of the padded sequence; the tests in the order of R81. -/
def paddedByte (src : Nat → Byte) (L O i j : Nat) : Byte :=
  let g := 64 * i + j
  if i + 1 = nblocks L ∧ 56 ≤ j then byteOfSize (BitVec.ofNat 64 (bitlen L O)) (j - 56)
  else if g < L then src g
  else if g = L then terminator
  else 0x00

/-- `PB(src, L, O, i)`: the 64 bytes of block `i` (R81). -/
def paddedBlock (src : Nat → Byte) (L O i : Nat) : Block :=
  Vector.ofFn fun j => paddedByte src L O i j.val

/-- `n` blocks of a padder run, from block `i` upwards: `S_{i+1} = CB(S_i, PB(src, L, O, i))` (R83). -/
def padRunFrom (src : Nat → Byte) (L O : Nat) : Nat → Nat → Hash → Hash
  | 0, _, S => S
  | n + 1, i, S => padRunFrom src L O n (i + 1) (CB S (paddedBlock src L O i))

/-- `PS(S, src, L, O)`: the state a padder run leaves in `H` (R83). -/
def PS (S : Hash) (src : Nat → Byte) (L O : Nat) : Hash := padRunFrom src L O (nblocks L) 0 S

/-- What `PROCESS` does from acceptance to completion: `H = PS(H, DATA, DLEN, O)` (R84). -/
def runProcess (s : State) : State :=
  finish .process
    { s with H := PS s.H (engineByte s .data) s.latch.DLEN.toNat s.latch.O.toNat }

/-- `PROCESS` (R84). -/
def execProcess (s : State) : Host.Outcome State Fault Refusal := issue .process runProcess s

end Sys2Proof.Machine
end

