-- ==== Sys2Proof/Machine/Digest.lean ====
section
/-! DEFINITION. Serialisation of a hash state (43_digest.md R91) and the commands `LOAD_IV`,
`STORE_DIGEST` and `HASH`. -/

namespace Sys2Proof.Machine

/-- Byte `n` of `ser(S)`, as a byte source of length 32 (R91, R103); zero above. -/
def serByte (S : Hash) (n : Nat) : Byte :=
  if h : n < 32 then byteOfWord (S[n / 4]'(by omega)) (n % 4) else 0x00

/-- `ser(S)`: the 32 bytes of a state, four big-endian bytes a word (R91). -/
def ser (S : Hash) : Vector Byte 32 := Vector.ofFn fun n => serByte S n.val

/-- The bytes a store writes: the first `min(olen, 32)` bytes of `ser(S)`, in increasing index order (R37, R92). -/
def digestPrefix (S : Hash) (olen : Nat) : List Byte :=
  (List.range (min olen digestBytes)).map (serByte S)

/-- `STORE` with `OLEN`: `min(OLEN, 32)` bytes of `ser(H)` go to OUT (R92). -/
def storeDigest (s : State) : State := storeOut (digestPrefix s.H s.latch.OLEN.toNat) s

/-- What `LOAD_IV` does from acceptance to completion (R90). -/
def runLoadIv (s : State) : State := finish .loadIv { s with H := IV }

/-- `LOAD_IV` (R90). -/
def execLoadIv (s : State) : Host.Outcome State Fault Refusal := issue .loadIv runLoadIv s

/-- What `STORE_DIGEST` does from acceptance to completion (R92). -/
def runStoreDigest (s : State) : State := finish .storeDigest (storeDigest s)

/-- `STORE_DIGEST` (R92). -/
def execStoreDigest (s : State) : Host.Outcome State Fault Refusal := issue .storeDigest runStoreDigest s

/-- What `HASH` does from acceptance to completion: `H = PS(IV, DATA, DLEN, 0)`, then `STORE` (R93). -/
def runHash (s : State) : State :=
  finish .hash (storeDigest { s with H := PS IV (engineByte s .data) s.latch.DLEN.toNat 0 })

/-- `HASH` (R93). -/
def execHash (s : State) : Host.Outcome State Fault Refusal := issue .hash runHash s

end Sys2Proof.Machine
end

