-- ==== Sys2Proof/Machine/Hmac.lean ====
section
/-! DEFINITION. The HMAC key block, the padded keys and the two passes as functions (44_hmac.md R100 to R103)
and the command `HMAC`. -/

namespace Sys2Proof.Machine

/-- `KEY_BLOCK` for a key of at most 64 bytes: the key, zero-filled (R100). -/
def keyBlockCopied (key : Nat → Byte) (klen : Nat) : Block :=
  Vector.ofFn fun j => if j.val < klen then key j.val else 0x00

/-- `KEY_BLOCK` for a longer key, from the state its hashing left: the full digest, zero-filled (R100). -/
def keyBlockHashed (S : Hash) : Block :=
  Vector.ofFn fun j => if j.val < digestBytes then serByte S j.val else 0x00

/-- `KEY_BLOCK`: `KB[0..63]`; the test is strictly greater (R100). -/
def keyBlock (key : Nat → Byte) (klen : Nat) : Block :=
  if keyBlockBytes < klen then keyBlockHashed (PS IV key klen 0) else keyBlockCopied key klen

/-- The block of `PAD_FILL(p)`: `KB` XOR the repeated pad byte, all 64 bytes (R101). -/
def padKey (KB : Block) (p : Byte) : Block := Vector.ofFn fun j => KB[j.val] ^^^ p

/-- The inner pass (R102): the state `SAVE_INNER` puts into `IS`. -/
def innerPass (KB : Block) (data : Nat → Byte) (dlen : Nat) : Hash :=
  PS (CB IV (padKey KB ipad)) data dlen 64

/-- The outer pass over the 32-byte inner digest (R103): the final state. -/
def outerPass (KB : Block) (inner : Hash) : Hash :=
  PS (CB IV (padKey KB opad)) (serByte inner) 32 64

/-- What `HMAC` does from acceptance to completion: `KEY_BLOCK`, inner pass, outer pass, `STORE` (R104). -/
def runHmac (s : State) : State :=
  let kb := keyBlock (engineByte s .key) s.latch.KLEN.toNat
  let inner := innerPass kb (engineByte s .data) s.latch.DLEN.toNat
  finish .hmac (storeDigest { s with KB := kb, IS := inner, H := outerPass kb inner })

/-- `HMAC` (R104). -/
def execHmac (s : State) : Host.Outcome State Fault Refusal := issue .hmac runHmac s

end Sys2Proof.Machine
end

