-- ==== Sys2Proof/Machine/Dispatch.lean ====
section
/-! DEFINITION. The meaning of each command: one arm per constructor of `Instr`. -/

namespace Sys2Proof.Machine

/-- What the register write of command `i`'s word to `CMD` does, the command run to completion (R45, R150). -/
def exec (i : Instr) (s : State) : Host.Outcome State Fault Refusal :=
  match i with
  | .loadIv => Sys2Proof.Machine.execLoadIv s
  | .compress => Sys2Proof.Machine.execCompress s
  | .process => Sys2Proof.Machine.execProcess s
  | .storeDigest => Sys2Proof.Machine.execStoreDigest s
  | .hash => Sys2Proof.Machine.execHash s
  | .hmac => Sys2Proof.Machine.execHmac s

end Sys2Proof.Machine
end

