-- ==== Sys2Proof/WellFormed.lean ====
section
/-! DEFINITION. What makes a command word and a command well formed (30_encoding.md R45, R46, R48). -/

namespace Sys2Proof

/-- Format C, first check (R45): the reserved field, bits 31:8, is zero. -/
def wordReservedZero (v : Word) : Bool := v.extractLsb' 8 24 == 0

/-- Format C, second check (R46): the `OP` field, bits 7:0, is one of the six codes. -/
def wordOpDefined (v : Word) : Bool :=
  let op := (v.extractLsb' 0 8).toNat
  decide (1 ≤ op) && decide (op ≤ 6)

/-- A legal command word: both checks of format C (R48 calls every other word illegal). -/
def wordWellFormed (v : Word) : Bool := wordReservedZero v && wordOpDefined v

/-- A command is well formed as it stands: it has no operand field that could be out of range (R47, R49). -/
def Instr.wellFormed : Instr → Bool
  | .loadIv => true
  | .compress => true
  | .process => true
  | .storeDigest => true
  | .hash => true
  | .hmac => true

end Sys2Proof
end

