-- ==== Sys2Proof/Decode.lean ====
section
/-! DEFINITION. The decoder and the encoder of 30_encoding.md R45, R46, R48: one 32-bit word, matched against six constants. -/

namespace Sys2Proof

/-- Why a command word is illegal (R48). Whoever writes such a word to `CMD` while the block is idle gets the fault
`ILLEGAL_CMD` (R121). -/
inductive Reject where
  /-- A bit of the reserved field 31:8 is set, whatever the `OP` field says. -/
  | reservedBits
  /-- `OP` is `0x00` or one of `0x07` to `0xFF`. -/
  | undefinedOp
deriving DecidableEq, Repr

/-- The reserved field `ZERO`, bits 31:8 (R45). -/
def zeroField (v : Word) : BitVec 24 := v.extractLsb' 8 24

/-- The field `OP`, bits 7:0 (R45). -/
def opField (v : Word) : Byte := v.extractLsb' 0 8

/-- The command an `OP` code stands for (R46). -/
def decodeOp (op : Byte) : Except Reject Instr :=
  if op = 0x01 then .ok .loadIv
  else if op = 0x02 then .ok .compress
  else if op = 0x03 then .ok .process
  else if op = 0x04 then .ok .storeDigest
  else if op = 0x05 then .ok .hash
  else if op = 0x06 then .ok .hmac
  else .error .undefinedOp

/-- The decoder: total on all `2^32` words, illegal words rejected by name (R48). -/
def decode (v : Word) : Except Reject Instr :=
  if zeroField v = 0 then decodeOp (opField v) else .error .reservedBits

/-- The word written to `CMD` for a command: the third column of the table of R46. -/
def encode : Instr → Word
  | .loadIv => 0x00000001
  | .compress => 0x00000002
  | .process => 0x00000003
  | .storeDigest => 0x00000004
  | .hash => 0x00000005
  | .hmac => 0x00000006

/-- What the decoder reads from an instruction of `nbits` bits whose value is `w`.
Every command is one register word (R45): a 32-bit number, so no byte order enters (92_eei_decisions.md D14), and a
longer instruction whose later words are not zero is none. -/
def decodeTableWord (nbits w : Nat) : Option Instr :=
  let v := w % 2 ^ nbits
  if v < 2 ^ 32 then (decode (BitVec.ofNat 32 v)).toOption else none

/-- `LOAD_IV` is the word with bit 0 alone set. -/
theorem decode_loadIv : decode 0b00000000000000000000000000000001#32 = .ok .loadIv := by decide

/-- `COMPRESS` is the word with bit 1 alone set. -/
theorem decode_compress : decode 0b00000000000000000000000000000010#32 = .ok .compress := by decide

/-- `PROCESS` is the word with bits 1 and 0 set. -/
theorem decode_process : decode 0b00000000000000000000000000000011#32 = .ok .process := by decide

/-- `STORE_DIGEST` is the word with bit 2 alone set. -/
theorem decode_storeDigest : decode 0b00000000000000000000000000000100#32 = .ok .storeDigest := by decide

/-- `HASH` is the word with bits 2 and 0 set. -/
theorem decode_hash : decode 0b00000000000000000000000000000101#32 = .ok .hash := by decide

/-- `HMAC` is the word with bits 2 and 1 set. -/
theorem decode_hmac : decode 0b00000000000000000000000000000110#32 = .ok .hmac := by decide

end Sys2Proof
end

