-- ==== Sys2Proof/Machine/Engine.lean ====
section
/-! DEFINITION. The engine one step at a time: the sequencer's control flow (10_state.md R19, 44_hmac.md R105) over the
engine steps `FILL`, `EXPAND`, `INIT`, `ROUND`, `FEED`, `KEY_BLOCK`, `PAD_FILL`, `SAVE_INNER` and `STORE` (R52).
The setting of `H` to `IV` that opens a phase is taken together with the phase's first step, and the test `I < N` of a
padder run's loop stands at `FILL` (R77, R83). Log entry 15. -/

namespace Sys2Proof.Machine

/-- `seq <- (OP, PHASE, STEP, T)` within the command in flight. -/
def goto (ph : Phase) (st : EngineStep) (t : Nat) (s : State) : State :=
  { s with seq := ⟨s.seq.op, ph, st, t⟩ }

/-- Enter a phase that begins with a padder run over `L` bytes with offset `O` (R83). -/
def gotoRun (ph : Phase) (L O : Nat) (s : State) : State :=
  goto ph .fill 0 { s with latch := beginRun L O s.latch }

/-- The end of the command in flight. -/
def finishCurrent (s : State) : State :=
  match s.seq.op with
  | some i => finish i s
  | none => markCompleted s

/-- `H <- IV` before the first block of a run (R93, R100). -/
def loadIvAtStart (s : State) : State := if s.latch.I = 0 then { s with H := IV } else s

/-- `FILL(I)` from a byte source: `BLK <- PB(src, L, O, I)`, `CNT <- min(64 (I + 1), L)`, then `EXPAND` (R82). -/
def fillBlock (src : Nat → Byte) (s : State) : State :=
  let l := s.latch
  goto s.seq.phase .expand 16
    { s with
      W := loadBlock (paddedBlock src l.L.toNat l.O.toNat l.I.toNat) s.W
      latch := { l with CNT := BitVec.ofNat 64 (min (64 * (l.I.toNat + 1)) l.L.toNat) } }

/-- The loop of a padder run at `FILL`: another block while `I < N`, else what follows the run (R83). -/
def fillOr (src : Nat → Byte) (after : State → State) (s : State) : State :=
  if s.latch.I < s.latch.N then fillBlock src s else after s

/-- `PAD_FILL(p)`, with the `H <- IV` that opens its phase (R101, R102, R103). -/
def padFillStep (p : Byte) (s : State) : State :=
  goto s.seq.phase .expand 16 { s with H := IV, W := loadBlock (padKey s.KB p) s.W }

/-- Phase `KEY_BLOCK`: write `KB` from the key, or from the digest phase `KEY_HASH` left in `H` (R100). -/
def keyBlockStep (s : State) : State :=
  goto .innerKey .fill 0
    { s with
      KB := if keyBlockBytes < s.latch.KLEN.toNat then keyBlockHashed s.H
            else keyBlockCopied (engineByte s .key) s.latch.KLEN.toNat }

/-- `SAVE_INNER`, then phase `OUTER_KEY` (R102). -/
def saveInnerStep (s : State) : State := goto .outerKey .fill 0 { s with IS := s.H }

/-- What follows the padder run of phase `MSG`: `STORE` for `HASH`, completion for `PROCESS` (R105). -/
def afterMessage (s : State) : State :=
  if s.seq.op = some .hash then goto .store .fill 0 s else finishCurrent s

/-- `STORE` with `OLEN`, then completion (R92). -/
def storeStep (s : State) : State := finishCurrent (storeDigest s)

/-- The step at position `FILL`, by phase (R105). In phase `IDLE` the only command in flight is `LOAD_IV`. -/
def fillStep (s : State) : State :=
  match s.seq.phase with
  | .idle => finishCurrent { s with H := IV }
  | .keyHash => fillOr (engineByte s .key) (goto .keyBlock .fill 0) (loadIvAtStart s)
  | .keyBlock => keyBlockStep s
  | .innerKey => padFillStep ipad s
  | .innerData => fillOr (engineByte s .data) saveInnerStep s
  | .outerKey => padFillStep opad s
  | .outerData => fillOr (serByte s.IS) (goto .store .fill 0) s
  | .msg =>
    fillOr (engineByte s .data) afterMessage (if s.seq.op = some .hash then loadIvAtStart s else s)
  | .store => storeStep s

/-- `EXPAND`, one assignment (R70). -/
def expandStep (s : State) : State :=
  let t := s.seq.t
  if t < 63 then goto s.seq.phase .expand (t + 1) { s with W := expandAt s.W t }
  else goto s.seq.phase .init 0 { s with W := expandAt s.W t }

/-- `INIT` (R71). -/
def initStep (s : State) : State := goto s.seq.phase .round 0 { s with V := initWorking s.H }

/-- `ROUND(T)` (R72). -/
def roundStep (s : State) : State :=
  let t := s.seq.t
  if t < 63 then goto s.seq.phase .round (t + 1) { s with V := roundAt s.W t s.V }
  else goto s.seq.phase .feed 0 { s with V := roundAt s.W t s.V }

/-- `I <- I + 1`, back to the loop's test at `FILL` (R83). -/
def nextBlock (s : State) : State :=
  goto s.seq.phase .fill 0 { s with latch := { s.latch with I := s.latch.I + 1 } }

/-- Where the sequencer goes after a block's `FEED` (R73, R83, R105). -/
def afterBlock (s : State) : State :=
  match s.seq.phase with
  | .innerKey => gotoRun .innerData s.latch.DLEN.toNat 64 s
  | .outerKey => gotoRun .outerData 32 64 s
  | .msg => if s.seq.op = some .compress then finishCurrent s else nextBlock s
  | .keyHash => nextBlock s
  | .innerData => nextBlock s
  | .outerData => nextBlock s
  | .idle => finishCurrent s
  | .keyBlock => finishCurrent s
  | .store => finishCurrent s

/-- `FEED` (R73). -/
def feedStep (s : State) : State := afterBlock { s with H := feed s.H s.V }

/-- One engine step at the sequencer's position. -/
def engineStep (s : State) : State :=
  match s.seq.step with
  | .fill => fillStep s
  | .expand => expandStep s
  | .init => initStep s
  | .round => roundStep s
  | .feed => feedStep s

/-- The engine's turn: a step if a command is in flight, nothing otherwise (R136, R153). -/
def engineTurn (s : State) : State := if s.busy then engineStep s else s

/-- `k` turns of the engine. -/
def engineTurns : Nat → State → State
  | 0, s => s
  | k + 1, s => engineTurns k (engineTurn s)

/-- How many engine steps command `i` takes from the state it was accepted into: 115 a block (one `FILL` or `PAD_FILL`,
48 assignments, `INIT`, 64 rounds, `FEED`; `COMPRESS` has no fill), one for the end of each padder run, and one each for
`KEY_BLOCK` and `STORE` (R109, R154, counted in this model's steps). -/
def engineSteps (i : Instr) (l : Latches) : Nat :=
  match i with
  | .loadIv => 1
  | .compress => 114
  | .process => 115 * nblocks l.DLEN.toNat + 1
  | .storeDigest => 1
  | .hash => 115 * nblocks l.DLEN.toNat + 2
  | .hmac =>
    (if keyBlockBytes < l.KLEN.toNat then 115 * nblocks l.KLEN.toNat + 1 else 0)
      + 1 + 115 + (115 * nblocks l.DLEN.toNat + 1) + 115 + (115 + 1) + 1

/-- The register write of command `i`'s word to `CMD`, up to acceptance: the host may act before completion (R45). -/
def begin (i : Instr) (s : State) : Host.Outcome State Fault Refusal := issue i id s

end Sys2Proof.Machine
end

