-- ==== Sys2Proof/Machine/HostPort.lean ====
section
/-! DEFINITION. The host's moves, but for a command run to completion, which is `exec`'s (10_state.md R23, 20_memory.md
R30, 92_eei_decisions.md D2, 70_reset_and_hazards.md R140, R143, R145, R150, R156). -/

namespace Sys2Proof.Machine

/-! ## Bus addresses (`REG_BINDING` of R4, 92_eei_decisions.md D2) -/

/-- The first index from `n` up, among the `k` next ones, that is bound to a bus address. -/
def indexFrom (binding : Vector Nat 128) (addr : Nat) : Nat → Nat → Option Nat
  | 0, _ => none
  | k + 1, n =>
    if h : n < 128 then
      if binding[n] = addr then some n else indexFrom binding addr k (n + 1)
    else none

/-- The register index bound to a bus address, if there is one. -/
def indexAt (p : Config.Platform) (addr : Nat) : Option (BitVec 7) :=
  (indexFrom p.regBinding addr 128 0).map (BitVec.ofNat 7)

/-- The move a bus access is once its index is known. `start` means more than `write` for `CMD` only. -/
def accessMove (n : BitVec 7) : BusAccess → Move
  | .write v => .write n v
  | .start v => if n = 0 then .start v else .write n v
  | .read => .read n

/-- A bus access becomes the register access of the index bound to its address; every other move, and an access to an
address nothing is bound to, stays what it is. -/
def boundMove (p : Config.Platform) : Move → Move
  | .bus addr acc =>
    match indexAt p addr with
    | some n => accessMove n acc
    | none => .bus addr acc
  | .write n v => .write n v
  | .start v => .start v
  | .engine => .engine
  | .read n => .read n
  | .poke sp a b => .poke sp a b
  | .peek a => .peek a
  | .wait => .wait
  | .reset => .reset

/-! ## Accesses -/

/-- The command a register write issues if the block is idle: a legal word written to index 0 (R20, R45). -/
def commandOf (n : BitVec 7) (v : Word) : Option Instr :=
  if n = 0 then (decode v).toOption else none

/-- The command a move runs to completion within its step: only a write to `CMD` does (R20, R150). -/
def issuedBy : Move → Option Instr
  | .write n v => commandOf n v
  | .start _ => none
  | .engine => none
  | .read _ => none
  | .bus _ _ => none
  | .poke _ _ _ => none
  | .peek _ => none
  | .wait => none
  | .reset => none

/-- The host writes a DATA or KEY byte while a command is in flight: the space takes the byte, and whether the engine
sees the old or the new one is a free choice, made now for that byte (R145). Log entry 8. -/
def raceByte (sp : Space) (a : Nat) (b : Byte) (s : State) : State :=
  let seen := if Config.freeValue 1 s.draws 0 = 0 then engineByte s sp a else b
  { writeByte sp a b s with raced := ⟨sp, a, seen⟩ :: s.raced, draws := s.draws + 1 }

/-- The host writes one byte of a buffer space (R30, R145). -/
def pokeByte (sp : Space) (a : Nat) (b : Byte) (s : State) : Host.Outcome State Fault Refusal :=
  if capacity s.platform sp ≤ a then .fault (.noSuchByte sp a)
  else if s.busy then
    match sp with
    | .data => .next (raceByte .data a b s)
    | .key => .next (raceByte .key a b s)
    | .out => .refused .outWriteWhileBusy
  else .next (writeByte sp a b s)

/-- The byte the command in flight leaves in OUT if it runs to its end undisturbed: the `new` byte of R145.
`engineSteps` is the work of the whole command, so that many turns are enough from wherever the command stands, and the
turns after completion do nothing. Log entry 9. -/
def newOutByte (a : Nat) (s : State) : Byte :=
  match s.seq.op with
  | some i => (engineTurns (engineSteps i s.latch) s).out.read a
  | none => s.out.read a

/-- The byte the host gets from OUT. A byte the command in flight stores is unspecified, old or new: a free choice, made
now for that read (R145). Every other byte is the one OUT holds. Log entry 9. -/
def peekValue (a : Nat) (s : State) : Byte :=
  if a < outInFlight s then
    if Config.freeValue 1 s.draws (1024 + a) = 0 then s.out.read a else newOutByte a s
  else s.out.read a

/-- The host reads one byte of OUT (R30). -/
def peekByte (a : Nat) (s : State) : Host.Outcome State Fault Refusal :=
  if s.platform.outCap ≤ a then .fault (.noSuchByte .out a)
  else .next { s with byteRead := peekValue a s, draws := s.draws + 1 }

/-- The CMD write of a host that may act again before completion (R45, R150): acceptance only. -/
def startCommand (v : Word) (s : State) : Host.Outcome State Fault Refusal :=
  match commandOf 0 v with
  | some i => begin i s
  | none => .next (writeRegister 0 v s)

/-- One poll of `WAIT` (R50). While `BUSY = 1` the engine takes a step and the host polls again; when `DONE` or `FAULT`
is set the host has read it and goes on; with neither set it polls for ever. `s` has the move taken off its list. -/
def waitPoll (s : State) : State :=
  let again := { s with host := .wait :: s.host }
  if s.busy then engineTurn again
  else if s.done || s.fault then readRegister 1 s
  else again

/-- A move of the run, taken off the list already. A `write` comes here when it issues no command, a `bus` when its
address is bound to no register. -/
def makeMove (m : Move) (s : State) : Host.Outcome State Fault Refusal :=
  match m with
  | .write n v => .next (writeRegister n v s)
  | .start v => startCommand v s
  | .engine => .next (engineTurn s)
  | .read n => .next (readRegister n s)
  | .bus addr _ => .refused (.noRegisterAt addr)
  | .poke sp a b => pokeByte sp a b s
  | .peek a => peekByte a s
  | .wait => .next (waitPoll s)
  | .reset => .next (applyReset s)

/-- With no move pending the engine goes on with the command in flight; an idle or faulted block holds its registers
(R136, R140, R153). -/
def noMove (s : State) : Host.Outcome State Fault Refusal := .next (engineTurn s)

end Sys2Proof.Machine
end

