-- ==== Sys2Proof/Machine/Step.lean ====
section
/-! DEFINITION. One step of a run (70_reset_and_hazards.md R155): the next move of the host's list. The block fetches no
instruction (R43); a command arrives as a register write, and that write is where `step` meets it. -/

namespace Sys2Proof.Machine

/-- One step. A bus access is first read as the register access it is; a register write that issues a command runs that
command's meaning; every other move, and the absence of one, is Machine/HostPort.lean's. -/
def step (s : State) : Host.Outcome State Fault Refusal :=
  match s.host with
  | [] => noMove s
  | m :: rest =>
    match issuedBy (boundMove s.platform m) with
    | some i => exec i { s with host := rest }
    | none => makeMove (boundMove s.platform m) { s with host := rest }

/-- The state in which the host's next move is the register write of the given command word to `CMD`: the bits above
`nbits` are zero. Nothing else changes. Log entry 2 says how a program comes to run. -/
def State.withFetchWord (s : State) (nbits w : Nat) : State :=
  { s with host := .write 0 (BitVec.ofNat 32 (w % 2 ^ nbits)) :: s.host }

end Sys2Proof.Machine
end

