-- ==== Sys2Proof/Machine/HostScript.lean ====
section
/-! DEFINITION. The host-action syntax of 30_encoding.md R50 and the pseudo-instructions of R51, as lists of moves. -/

namespace Sys2Proof.Machine

/-- `WR name, value`. -/
def Script.wr (r : Reg) (v : Word) : List Move := [.write (indexOf r) v]

/-- `WR64 name, value`: the low half first. -/
def Script.wr64 (o : Operand) (v : Size) : List Move :=
  [.write (indexOf (.operand o .lo)) (halfOf v .lo), .write (indexOf (.operand o .hi)) (halfOf v .hi)]

/-- `RD name`. -/
def Script.rd (r : Reg) : List Move := [.read (indexOf r)]

/-- The bytes of a `LOAD` from index `a` up. -/
def Script.loadFrom (sp : Space) : Nat → List Byte → List Move
  | _, [] => []
  | a, b :: bs => .poke sp a b :: Script.loadFrom sp (a + 1) bs

/-- `LOAD space, bytes`. -/
def Script.load (sp : Space) (bytes : List Byte) : List Move := Script.loadFrom sp 0 bytes

/-- `DUMP OUT, n`. -/
def Script.dump (n : Nat) : List Move := (List.range n).map .peek

/-- `CMD mnemonic`. -/
def Script.cmd (i : Instr) : List Move := [.write 0 (encode i)]

/-- `WAIT`. -/
def Script.wait : List Move := [.wait]

/-! The calls of R51. A length is an argument of its own, as in the document: nothing makes it the count of the bytes
loaded. -/

/-- `sha256(data, data_len, out, out_len)`. -/
def Script.sha256 (data : List Byte) (dataLen outLen : Size) : List Move :=
  Script.load .data data ++ Script.wr64 .dataLen dataLen ++ Script.wr64 .outLen outLen
    ++ Script.cmd .hash ++ Script.wait ++ Script.dump (min outLen.toNat digestBytes)

/-- `hash(data, length)`: the same with `out_len = 32`. -/
def Script.hash (data : List Byte) (length : Size) : List Move := Script.sha256 data length 32

/-- `hash(x, out, 16)` names no input length: the length is that of `x`. -/
def Script.hash16 (x : List Byte) : List Move := Script.sha256 x (BitVec.ofNat 64 x.length) 16

/-- `sha256_hmac(key, key_len, data, data_len, out, out_len)`. -/
def Script.sha256Hmac (key : List Byte) (keyLen : Size) (data : List Byte) (dataLen outLen : Size) : List Move :=
  Script.load .key key ++ Script.load .data data ++ Script.wr64 .keyLen keyLen ++ Script.wr64 .dataLen dataLen
    ++ Script.wr64 .outLen outLen ++ Script.cmd .hmac ++ Script.wait ++ Script.dump (min outLen.toNat digestBytes)

/-- `hmac(key, key_len, data, data_len)`: the same with `out_len = 32`. -/
def Script.hmac (key : List Byte) (keyLen : Size) (data : List Byte) (dataLen : Size) : List Move :=
  Script.sha256Hmac key keyLen data dataLen 32

/-- The eight writes of a state into `H` (R51). -/
def Script.writeHash (S : Hash) : List Move := (List.finRange 8).flatMap fun i => Script.wr (.hash i) S[i.val]

/-- The sixteen writes of a block's words into `W[0..15]` (R51). -/
def Script.writeBlock (w : Vector Word 16) : List Move :=
  (List.finRange 16).flatMap fun t => Script.wr (.sched ⟨t.val, by omega⟩) w[t.val]

/-- `compress(schedule, state)` (R51). -/
def Script.compress (w : Vector Word 16) (S : Hash) : List Move :=
  Script.writeHash S ++ Script.writeBlock w ++ Script.cmd .compress ++ Script.wait
    ++ (List.finRange 8).flatMap (fun i => Script.rd (.hash i))
    ++ (List.finRange 48).flatMap (fun k => Script.rd (.sched ⟨16 + k.val, by omega⟩))

/-- `process(data, length, state, bytes_already_processed)`. -/
def Script.process (data : List Byte) (length : Size) (S : Hash) (processed : Size) : List Move :=
  Script.load .data data ++ Script.writeHash S ++ Script.wr64 .dataLen length
    ++ Script.wr64 .offset processed ++ Script.cmd .process ++ Script.wait
    ++ (List.finRange 8).flatMap (fun i => Script.rd (.hash i))

/-- `compress_from(initial_state, already_processed_bytes, remaining_data)`: `process` over all of the data. -/
def Script.compressFrom (S : Hash) (processed : Size) (remaining : List Byte) : List Move :=
  Script.process remaining (BitVec.ofNat 64 remaining.length) S processed

/-- The three part commands `HASH` is equal to in its effect on `H` and OUT (R93). -/
def Script.hashInParts : List Move :=
  Script.cmd .loadIv ++ Script.wait ++ Script.wr64 .offset 0 ++ Script.cmd .process ++ Script.wait
    ++ Script.cmd .storeDigest ++ Script.wait

end Sys2Proof.Machine
end

