-- ==== Sys2Proof/Safety.lean ====
section
/-! DEFINITION. What a legal state, a good end of a run and a host that keeps the hazard rules are, and the frames claims
are stated with. -/

namespace Sys2Proof.Machine

/-! ## Legal states -/

/-- The legal values of `STATUS[2:0]` and `FAULT_CAUSE` (R21, R22, R120): at most one of `BUSY`, `DONE`; `FAULT` excludes
both; the cause is 0 without a fault and one of the five codes with one. -/
def StatusLegal (s : State) : Prop :=
  (s.busy = true → s.done = false) ∧
  (s.fault = true → s.busy = false ∧ s.done = false ∧ ∃ c, s.cause = causeCode c) ∧
  (s.fault = false → s.cause = 0)

/-- The three spaces are in canonical form and hold no byte at or above their capacity (R30, R38). -/
def MemoryLegal (s : State) : Prop :=
  ∀ sp, (spaceBytes s sp).wf = true ∧ ∀ c ∈ spaceBytes s sp, c.1 < capacity s.platform sp

/-- The phases a command passes through (the table of R105). -/
def phasesOf : Instr → List Phase
  | .loadIv => [.idle]
  | .compress => [.msg]
  | .process => [.msg]
  | .storeDigest => [.store]
  | .hash => [.msg, .store]
  | .hmac => [.keyHash, .keyBlock, .innerKey, .innerData, .outerKey, .outerData, .store]

/-- The phases in which a block is compressed (R105). -/
def phaseCompresses : Phase → Bool
  | .keyHash | .innerKey | .innerData | .outerKey | .outerData | .msg => true
  | .idle | .keyBlock | .store => false

/-- Length and offset of the padder run of a phase, if the phase has one (R105). -/
def runOf (i : Instr) (ph : Phase) (l : Latches) : Option (Nat × Nat) :=
  match ph, i with
  | .keyHash, _ => some (l.KLEN.toNat, 0)
  | .innerData, _ => some (l.DLEN.toNat, 64)
  | .outerData, _ => some (32, 64)
  | .msg, .hash => some (l.DLEN.toNat, 0)
  | .msg, .process => some (l.DLEN.toNat, l.O.toNat)
  | _, _ => none

/-- The counter bounds of R19 for one step. -/
def stepBounded : EngineStep → Nat → Prop
  | .fill, t => t = 0
  | .expand, t => 16 ≤ t ∧ t < 64
  | .init, t => t = 0
  | .round, t => t < 64
  | .feed, t => t = 0

/-- The sequencer position of a command in flight is one the command can be in, its counters are in their bounds, and the
latches hold what acceptance checked and the padder run set up (R18, R19, R83, R105). -/
def PositionLegal (i : Instr) (s : State) : Prop :=
  s.seq.phase ∈ phasesOf i ∧
  stepBounded s.seq.step s.seq.t ∧
  (s.seq.step ≠ .fill → phaseCompresses s.seq.phase = true) ∧
  (i = .compress → s.seq.step ≠ .fill) ∧
  lengthOk i s.latch = true ∧ rangeOk i s.platform s.latch = true ∧
  (s.seq.phase = .keyHash → keyBlockBytes < s.latch.KLEN.toNat) ∧
  ∀ L O, runOf i s.seq.phase s.latch = some (L, O) →
    s.latch.L.toNat = L ∧ s.latch.O.toNat = O ∧ s.latch.N.toNat = nblocks L ∧
    s.latch.I.toNat ≤ nblocks L ∧ (s.seq.step ≠ .fill → s.latch.I.toNat < nblocks L)

/-- `SEQ` is at rest exactly when no command is in flight, and otherwise at a legal position (R19, R27, R127). -/
def SequencerLegal (s : State) : Prop :=
  (s.busy = false → s.seq = Seq.rest) ∧
  (s.busy = true → ∃ i, s.seq.op = some i ∧ PositionLegal i s)

/-- A legal state. -/
def Legal (s : State) : Prop := StatusLegal s ∧ MemoryLegal s ∧ SequencerLegal s

/-! ## Runs -/

/-- A run has ended well (R155): the list of host actions is exhausted, the block is idle and not faulted, and so the
engine has no step left. -/
def EndedWell (s : State) : Prop := s.host = [] ∧ isIdle s = true

/-- The moves of a host that keeps R143 and R145, given whether a command may be in flight: until it has waited for
completion or reset the block, it writes no register and touches no buffer. -/
def keepsHazards : Bool → List Move → Bool
  | _, [] => true
  | _, .wait :: ms => keepsHazards false ms
  | _, .reset :: ms => keepsHazards false ms
  | f, .engine :: ms => keepsHazards f ms
  | f, .read _ :: ms => keepsHazards f ms
  | f, .bus _ .read :: ms => keepsHazards f ms
  | f, .bus _ (.write _) :: ms => !f && keepsHazards false ms
  | f, .bus _ (.start _) :: ms => !f && keepsHazards true ms
  | f, .write _ _ :: ms => !f && keepsHazards false ms
  | f, .start _ :: ms => !f && keepsHazards true ms
  | f, .poke _ _ _ :: ms => !f && keepsHazards false ms
  | f, .peek _ :: ms => !f && keepsHazards false ms

/-! ## Frames -/

/-- What no command changes, whatever its outcome (R17, R44): the operand registers, the bytes of DATA and KEY, the
capacities, and the host's side of the interface. -/
def SameOutside (s t : State) : Prop :=
  t.dataLen = s.dataLen ∧ t.keyLen = s.keyLen ∧ t.outLen = s.outLen ∧ t.offset = s.offset ∧
  t.data = s.data ∧ t.key = s.key ∧ t.platform = s.platform ∧
  t.host = s.host ∧ t.regRead = s.regRead ∧ t.byteRead = s.byteRead

/-- A command has completed (R45): `BUSY = 0`, `DONE = 1`, no fault entered, `SEQ` at rest. -/
def CompletedFrom (s t : State) : Prop :=
  t.busy = false ∧ t.done = true ∧ t.fault = s.fault ∧ t.cause = s.cause ∧ t.seq = Seq.rest

/-- OUT after a store of `min(olen, 32)` bytes of `ser(S)` (R37): those bytes are the digest's, every other byte reads as
before. -/
def StoredDigest (S : Hash) (olen : Nat) (before after : Memory) : Prop :=
  (before.wf = true → ∀ a, a < min olen digestBytes → after.read a = serByte S a) ∧
  (∀ a, min olen digestBytes ≤ a → after.read a = before.read a)

/-- Fault entry with cause `c` (R127), as far as every cause shares it. -/
def FaultedWith (c : Cause) (t : State) : Prop :=
  t.fault = true ∧ t.busy = false ∧ t.done = false ∧ t.cause = causeCode c ∧ t.seq = Seq.rest

/-- A precise fault (R127): no datapath state and no byte of OUT has changed. -/
def SameDatapath (s t : State) : Prop :=
  t.H = s.H ∧ t.W = s.W ∧ t.V = s.V ∧ t.KB = s.KB ∧ t.IS = s.IS ∧ t.out = s.out

/-- `B ‖ src`: a byte source preceded by a 64-byte block (R83, R108). -/
def prependBlock (B : Block) (src : Nat → Byte) (g : Nat) : Byte :=
  if h : g < 64 then B[g] else src (g - 64)

/-- `SHA(m)`: the digest of a message of `L` bytes (R108). -/
def digestOf (m : Nat → Byte) (L : Nat) : Vector Byte 32 := ser (PS IV m L 0)

end Sys2Proof.Machine
end

