-- ==== Sys2Proof/Certificates/Slice0/Obligations.lean ====
section
/-! DEFINITION. The statements for the provers, each with the rule of spec/ it formalises. -/

open Sys2Proof Sys2Proof.Machine

/-! ## Encoding and issue -/

/-- R46: the six words, written out bit by bit, decode to their commands. -/
def Obligations.CommandWordsDecode : Prop :=
  decode 0b00000000000000000000000000000001#32 = .ok .loadIv ∧
  decode 0b00000000000000000000000000000010#32 = .ok .compress ∧
  decode 0b00000000000000000000000000000011#32 = .ok .process ∧
  decode 0b00000000000000000000000000000100#32 = .ok .storeDigest ∧
  decode 0b00000000000000000000000000000101#32 = .ok .hash ∧
  decode 0b00000000000000000000000000000110#32 = .ok .hmac

/-- R49: a decoder reads one 32-bit word, and nothing else, and matches it against six constants; every other word is
rejected (R48). -/
def Obligations.DecoderMatchesExactlySixWords : Prop :=
  (∀ v i, decode v = .ok i ↔ v = encode i) ∧
  (∀ v, (∀ i, v ≠ encode i) → ∃ r, decode v = .error r) ∧
  (∀ v, (∃ i, decode v = .ok i) ↔ wordWellFormed v = true)

/-- R45: a step whose move is the register write of a command's word runs that command's meaning on the state with the
move taken off the list; `withFetchWord` places such a write. That the write runs the whole command is the model's choice
within R150 (log entries 1 and 2). -/
def Obligations.StepRunsTheCommandWritten : Prop :=
  (∀ s v i rest, s.host = .write 0 v :: rest → decode v = .ok i → step s = exec i { s with host := rest }) ∧
  (∀ s i, step (s.withFetchWord 32 (encode i).toNat) = exec i s)

/-! ## Word functions -/

/-- R55: addition modulo `2^32`; order and grouping do not matter; the corner cases and the example. -/
def Obligations.Add32IsSumModuloTwoPow32 : Prop :=
  (∀ xs : List Word, (add32 xs).toNat = (xs.map BitVec.toNat).sum % 2 ^ 32) ∧
  (∀ xs ys : List Word, xs.Perm ys → add32 xs = add32 ys) ∧
  (∀ xs ys : List Word, add32 [add32 xs, add32 ys] = add32 (xs ++ ys)) ∧
  add32 [0xFFFFFFFF, 1] = 0 ∧ add32 [0x80000000, 0x80000000] = 0 ∧ (∀ x, add32 [x, 0] = x) ∧
  add32 [0xFFFFFFFF, 0xFFFFFFFF, 0xFFFFFFFF, 0xFFFFFFFF, 0xFFFFFFFF] = 0xFFFFFFFB

/-- R56: the formula, the bit-by-bit reading and the examples. -/
def Obligations.RotrMovesEveryBit : Prop :=
  (∀ (x : Word) (n : Nat), 1 ≤ n → n ≤ 31 →
    rotr x n = (x >>> n ||| x <<< (32 - n)) ∧
    ∀ i, i < 32 → (rotr x n).getLsbD i = x.getLsbD ((i + n) % 32)) ∧
  rotr 0x00000001 1 = 0x80000000 ∧ rotr 0x12345678 1 = 0x091A2B3C

/-- R57: `x div 2^n`, zeros entering at the top; the examples. -/
def Obligations.ShrIsUnsignedDivision : Prop :=
  (∀ (x : Word) (n : Nat), (shr x n).toNat = x.toNat / 2 ^ n ∧ ∀ i, 32 - n ≤ i → (shr x n).getLsbD i = false) ∧
  shr 0x80000000 3 = 0x10000000 ∧ shr 0xFFFFFFFF 10 = 0x003FFFFF

/-- R59 to R62: the four sigma functions by their formulas and bit by bit, with their corner cases and examples. -/
def Obligations.SigmasBitByBit : Prop :=
  (∀ (x : Word) (i : Nat), i < 32 →
    (ssig0 x).getLsbD i = ((x.getLsbD ((i + 7) % 32) ^^ x.getLsbD ((i + 18) % 32)) ^^ x.getLsbD (i + 3)) ∧
    (ssig1 x).getLsbD i = ((x.getLsbD ((i + 17) % 32) ^^ x.getLsbD ((i + 19) % 32)) ^^ x.getLsbD (i + 10)) ∧
    (bsig0 x).getLsbD i =
      ((x.getLsbD ((i + 2) % 32) ^^ x.getLsbD ((i + 13) % 32)) ^^ x.getLsbD ((i + 22) % 32)) ∧
    (bsig1 x).getLsbD i =
      ((x.getLsbD ((i + 6) % 32) ^^ x.getLsbD ((i + 11) % 32)) ^^ x.getLsbD ((i + 25) % 32))) ∧
  (∀ x, ssig0 x = rotr x 7 ^^^ rotr x 18 ^^^ shr x 3 ∧ ssig1 x = rotr x 17 ^^^ rotr x 19 ^^^ shr x 10 ∧
    bsig0 x = rotr x 2 ^^^ rotr x 13 ^^^ rotr x 22 ∧ bsig1 x = rotr x 6 ^^^ rotr x 11 ^^^ rotr x 25) ∧
  ssig0 0 = 0 ∧ ssig0 0xFFFFFFFF = 0x1FFFFFFF ∧ ssig0 0x00000001 = 0x02004000 ∧
  ssig1 0 = 0 ∧ ssig1 0xFFFFFFFF = 0x003FFFFF ∧ ssig1 0x00000001 = 0x0000A000 ∧
  bsig0 0 = 0 ∧ bsig0 0xFFFFFFFF = 0xFFFFFFFF ∧ bsig0 0x6A09E667 = 0xCE20B47E ∧
  bsig1 0 = 0 ∧ bsig1 0xFFFFFFFF = 0xFFFFFFFF ∧ bsig1 0x510E527F = 0x3587272B

/-- R63, R64: `ch` selects bit by bit, `maj` is the majority and symmetric; formulas, corner cases and examples. -/
def Obligations.ChSelectsAndMajIsMajority : Prop :=
  (∀ x y z : Word, ch x y z = (x &&& y) ^^^ (~~~x &&& z)) ∧
  (∀ (x y z : Word) (i : Nat),
    (ch x y z).getLsbD i = if x.getLsbD i then y.getLsbD i else z.getLsbD i) ∧
  (∀ y z : Word, ch 0xFFFFFFFF y z = y ∧ ch 0 y z = z) ∧
  ch 0x510E527F 0x9B05688C 0x1F83D9AB = 0x1F85C98C ∧
  (∀ x y z : Word, maj x y z = (x &&& y) ^^^ (x &&& z) ^^^ (y &&& z)) ∧
  (∀ (x y z : Word) (i : Nat), (maj x y z).getLsbD i =
    ((x.getLsbD i && y.getLsbD i) || (x.getLsbD i && z.getLsbD i) || (y.getLsbD i && z.getLsbD i))) ∧
  (∀ x y z : Word, maj x y z = maj y x z ∧ maj x y z = maj x z y) ∧
  (∀ x y z : Word, maj x x z = x ∧ maj 0 y z = y &&& z) ∧
  maj 0x6A09E667 0xBB67AE85 0x3C6EF372 = 0x3A6FE667

/-- R80: a padder run processes exactly `ceil((L + 9) / 64)` blocks, numbered from 0, each from the state the one before
it left; the boundary values. -/
def Obligations.PadderRunIsNblocksCompressions : Prop :=
  (∀ (S : Hash) (src : Nat → Byte) (L O : Nat),
    PS S src L O = (List.range (nblocks L)).foldl (fun T i => CB T (paddedBlock src L O i)) S) ∧
  (∀ L, L + 9 ≤ 64 * nblocks L ∧ 64 * nblocks L < L + 9 + 64 ∧ 1 ≤ nblocks L) ∧
  nblocks 55 = 1 ∧ nblocks 56 = 2 ∧ nblocks 57 = 2 ∧ nblocks 64 = 2 ∧ nblocks 0 = 1

/-- R67: for every accepted length the block count fits `N` and the bit count fits the trailer with no wrap. -/
def Obligations.LengthArithmeticDoesNotWrap : Prop :=
  ∀ L O : Nat, L + O ≤ maxTotal →
    L + 72 < 2 ^ 64 ∧ (BitVec.ofNat 56 (nblocks L)).toNat = nblocks L ∧
    (BitVec.ofNat 64 (bitlen L O)).toNat = (L + O) * 8

/-- R65, R66: each constant is the first 32 bits of the fractional part of the cube root, or of the square root, of its
prime. The spec marks the values and this definition of them as general knowledge (log entry 16). -/
def Obligations.ConstantsAreRootFractions : Prop :=
  let primes := (List.range 312).filter fun p =>
    decide (2 ≤ p) && (List.range p).all fun d => decide (d < 2) || decide (p % d ≠ 0)
  primes.length = 64 ∧
  (∀ (t : Nat) (h : t < 64), ∃ n, n < 7 ∧
    (n * 2 ^ 32 + K[t].toNat) ^ 3 ≤ primes[t]?.getD 0 * 2 ^ 96 ∧
    primes[t]?.getD 0 * 2 ^ 96 < (n * 2 ^ 32 + K[t].toNat + 1) ^ 3) ∧
  (∀ (i : Nat) (h : i < 8), ∃ n, n < 5 ∧
    (n * 2 ^ 32 + IV[i].toNat) ^ 2 ≤ primes[i]?.getD 0 * 2 ^ 64 ∧
    primes[i]?.getD 0 * 2 ^ 64 < (n * 2 ^ 32 + IV[i].toNat + 1) ^ 2)

/-- R68, R91: `be32`, `bytes32` and `bytes64` by their values, that the first two are inverse to each other, and the
serialisation of a state, four big-endian bytes a word. -/
def Obligations.SerialisersAreBigEndianInverses : Prop :=
  (∀ b0 b1 b2 b3 : Byte, (be32 b0 b1 b2 b3).toNat =
    b0.toNat * 2 ^ 24 + b1.toNat * 2 ^ 16 + b2.toNat * 2 ^ 8 + b3.toNat) ∧
  (∀ (w : Word) (m : Nat) (h : m < 4), ((bytes32 w)[m]).toNat = w.toNat / 2 ^ (24 - 8 * m) % 256) ∧
  (∀ (v : Size) (k : Nat) (h : k < 8), ((bytes64 v)[k]).toNat = v.toNat / 2 ^ (56 - 8 * k) % 256) ∧
  (∀ w : Word, be32 (bytes32 w)[0] (bytes32 w)[1] (bytes32 w)[2] (bytes32 w)[3] = w) ∧
  (∀ b0 b1 b2 b3 : Byte, bytes32 (be32 b0 b1 b2 b3) = #v[b0, b1, b2, b3]) ∧
  be32 0x61 0x62 0x63 0x80 = 0x61626380 ∧ bytes64 0x18 = #v[0, 0, 0, 0, 0, 0, 0, 0x18] ∧
  (∀ (S : Hash) (k m : Nat) (hk : k < 8) (hm : m < 4),
    (ser S)[4 * k + m] = S[k].extractLsb' (24 - 8 * m) 8 ∧ (ser S)[4 * k + m] = (bytes32 S[k])[m]) ∧
  (∀ S : Hash, S[0] = 0xBA7816BF →
    (ser S)[0] = 0xBA ∧ (ser S)[1] = 0x78 ∧ (ser S)[2] = 0x16 ∧ (ser S)[3] = 0xBF)

/-! ## Compression engine -/

/-- R12: the block's bytes are the bytes of the first 16 schedule words, the most significant first. -/
def Obligations.BlockViewOfTheSchedule : Prop :=
  ∀ (B : Block) (w : Schedule),
    (∀ (j : Nat) (h : j < 64), byteOfWord ((loadBlock B w)[j / 4]'(by omega)) (j % 4) = B[j]) ∧
    (∀ (i : Nat) (h : i < 16),
      (loadBlock B w)[i] = be32 B[4 * i] B[4 * i + 1] B[4 * i + 2] B[4 * i + 3]) ∧
    (∀ (t : Nat) (_ : 16 ≤ t) (h : t < 64), (loadBlock B w)[t] = w[t])

/-- R70: the recurrence, the words it leaves alone, that it depends on the first 16 words only, the corner cases and the
example. -/
def Obligations.ExpansionRecurrence : Prop :=
  (∀ (w : Schedule) (t : Nat) (h : 16 ≤ t ∧ t < 64), (expand w)[t] =
    add32 [(expand w)[t - 16], (expand w)[t - 7], ssig0 (expand w)[t - 15], ssig1 (expand w)[t - 2]]) ∧
  (∀ (w : Schedule) (t : Nat) (h : t < 16), (expand w)[t] = w[t]) ∧
  (∀ w w' : Schedule, (∀ (t : Nat) (h : t < 16), w[t] = w'[t]) → expand w = expand w') ∧
  (∀ w : Schedule, (∀ (t : Nat) (h : t < 16), w[t] = 0) → ∀ (t : Nat) (h : t < 64), (expand w)[t] = 0) ∧
  (∀ w : Schedule, (∀ (t : Nat) (h : t < 16), w[t] = 0xFFFFFFFF) →
    (expand w)[16] = 0x203FFFFC ∧ (expand w)[17] = 0x203FFFFC ∧
    (expand w)[18] = 0x20099BE4 ∧ (expand w)[19] = 0x20099BE4) ∧
  (∀ w : Schedule, w[0] = 0x61626380 → (∀ (t : Nat) (h : 1 ≤ t ∧ t < 15), w[t] = 0) → w[15] = 0x00000018 →
    (expand w)[16] = 0x61626380 ∧ (expand w)[17] = 0x000F0000)

/-- R74: `compress_block` is the 64 rounds in order over a copy of the state (R71) and then the word-wise sum (R73); each
round is the one of R72. -/
def Obligations.CompressBlockIsSixtyFourRounds : Prop :=
  (∀ (S : Hash) (w : Schedule),
    (compressBlock S w).W = expand w ∧
    (compressBlock S w).V = (List.range 64).foldl (fun v t => roundAt (expand w) t v) (initWorking S) ∧
    (compressBlock S w).H = feed S (compressBlock S w).V) ∧
  (∀ S : Hash, let v := initWorking S
    v.a = S[0] ∧ v.b = S[1] ∧ v.c = S[2] ∧ v.d = S[3] ∧ v.e = S[4] ∧ v.f = S[5] ∧ v.g = S[6] ∧ v.h = S[7]) ∧
  (∀ (S : Hash) (w : Schedule), let c := compressBlock S w
    c.H[0] = S[0] + c.V.a ∧ c.H[1] = S[1] + c.V.b ∧ c.H[2] = S[2] + c.V.c ∧ c.H[3] = S[3] + c.V.d ∧
    c.H[4] = S[4] + c.V.e ∧ c.H[5] = S[5] + c.V.f ∧ c.H[6] = S[6] + c.V.g ∧ c.H[7] = S[7] + c.V.h) ∧
  (∀ (w : Schedule) (t : Nat) (h : t < 64) (v : Working),
    let T1 := add32 [v.h, bsig1 v.e, ch v.e v.f v.g, K[t], w[t]]
    let T2 := add32 [bsig0 v.a, maj v.a v.b v.c]
    roundAt w t v = ⟨T1 + T2, v.a, v.b, v.c, v.d + T1, v.e, v.f, v.g⟩)

/-- R76: the result of a compression is a function of `H` and the 16 words of the block alone. -/
def Obligations.CompressionDependsOnStateAndBlockAlone : Prop :=
  (∀ (S : Hash) (w w' : Schedule), (∀ (t : Nat) (h : t < 16), w[t] = w'[t]) →
    compressBlock S w = compressBlock S w') ∧
  (∀ (S : Hash) (B : Block) (w : Schedule), (compressBlock S (loadBlock B w)).H = CB S B)

/-! ## Padder -/

/-- R85 item 3, R81: the blocks of a run, put together, are the data, one terminator, zeros and the 8-byte bit count. -/
def Obligations.PaddedSequenceLayout : Prop :=
  ∀ (src : Nat → Byte) (L O g : Nat), g < 64 * nblocks L →
    (paddedBlock src L O (g / 64))[g % 64]'(by omega) =
      if g < L then src g
      else if g = L then 0x80
      else if g < 64 * nblocks L - 8 then 0x00
      else byteOfSize (BitVec.ofNat 64 ((L + O) * 8)) (g - (64 * nblocks L - 8))

/-- R86: the block of a zero-length input, and that no byte of the source is read. -/
def Obligations.ZeroLengthInputIsOneBlock : Prop :=
  nblocks 0 = 1 ∧
  (∀ (src : Nat → Byte) (O j : Nat) (h : j < 64), (paddedBlock src 0 O 0)[j] =
    if j = 0 then 0x80 else if j < 56 then 0x00 else (bytes64 (BitVec.ofNat 64 (8 * O)))[j - 56]'(by omega)) ∧
  (∀ (src src' : Nat → Byte) (S : Hash) (O : Nat), PS S src 0 O = PS S src' 0 O) ∧
  (∀ (src : Nat → Byte) (w : Schedule), (loadBlock (paddedBlock src 0 0 0) w)[0] = 0x80000000 ∧
    ∀ (t : Nat) (h : 1 ≤ t ∧ t < 16), (loadBlock (paddedBlock src 0 0 0) w)[t] = 0)

/-- R36, R81: a padder run reads no byte of its source at or above the stated length. -/
def Obligations.PadderReadsOnlyTheStatedBytes : Prop :=
  ∀ (S : Hash) (src src' : Nat → Byte) (L O : Nat), (∀ g, g < L → src g = src' g) → PS S src L O = PS S src' L O

/-- R83, continuation law: a block compressed by hand and then a run with offset 64 is the run over both. -/
def Obligations.ContinuationLaw : Prop :=
  ∀ (S : Hash) (B : Block) (src : Nat → Byte) (L : Nat),
    PS (CB S B) src L 64 = PS S (prependBlock B src) (64 + L) 0

/-! ## HMAC construction -/

/-- R107: the single block of the outer data run, word by word. -/
def Obligations.OuterDataBlockWordByWord : Prop :=
  ∀ (inner : Hash) (w : Schedule), nblocks 32 = 1 ∧
    let b := loadBlock (paddedBlock (serByte inner) 32 64 0) w
    (∀ (k : Nat) (h : k < 8), b[k] = inner[k]) ∧ b[8] = 0x80000000 ∧
    (∀ (k : Nat) (h : 9 ≤ k ∧ k ≤ 14), b[k] = 0) ∧ b[15] = 0x00000300

/-- R108: the two passes compute the construction formula, with the key read as the key block; the inner trailer counts
`64 + DLEN` bytes and the outer one 96. -/
def Obligations.HmacIsTheConstructionFormula : Prop :=
  ∀ (KB : Block) (data : Nat → Byte) (dlen : Nat),
    let inner := innerPass KB data dlen
    ser inner = digestOf (prependBlock (padKey KB 0x36) data) (64 + dlen) ∧
    ser (outerPass KB inner) =
      digestOf (prependBlock (padKey KB 0x5c) fun n => if h : n < 32 then (ser inner)[n] else 0) 96

/-- R100: the key block of a short key, of a key of exactly 64 bytes and of a longer key. -/
def Obligations.KeyBlockOfShortAndLongKeys : Prop :=
  ∀ (key : Nat → Byte) (klen j : Nat) (h : j < 64),
    (klen ≤ 64 → (keyBlock key klen)[j] = if j < klen then key j else 0x00) ∧
    (64 < klen → (keyBlock key klen)[j] = if h : j < 32 then (digestOf key klen)[j] else 0x00)

/-- R101: a padded key as the words it loads; the pad byte repeated, on every byte of the key block, and no terminator or
trailer. -/
def Obligations.PaddedKeyWords : Prop :=
  (∀ (KB : Block) (p : Byte) (w : Schedule) (k : Nat) (h : k < 16),
    (loadBlock (padKey KB p) w)[k] =
      be32 KB[4 * k] KB[4 * k + 1] KB[4 * k + 2] KB[4 * k + 3] ^^^ (p.setWidth 32 * 0x01010101)) ∧
  (∀ (key : Nat → Byte) (w : Schedule), (∀ j, j < 20 → key j = 0x0B) →
    (∀ (k : Nat) (h : k < 5), (loadBlock (padKey (keyBlock key 20) 0x36) w)[k] = 0x3D3D3D3D ∧
      (loadBlock (padKey (keyBlock key 20) 0x5c) w)[k] = 0x57575757) ∧
    (∀ (k : Nat) (h : 5 ≤ k ∧ k < 16), (loadBlock (padKey (keyBlock key 20) 0x36) w)[k] = 0x36363636 ∧
      (loadBlock (padKey (keyBlock key 20) 0x5c) w)[k] = 0x5C5C5C5C))

/-! ## The commands: completion, result and frame -/

/-- R90: `LOAD_IV` completes from every idle state, writes `H` and nothing else. -/
def Obligations.LoadIvSetsH : Prop :=
  ∀ s : State, isIdle s = true → ∃ t, exec .loadIv s = .next t ∧
    (∀ (i : Nat) (h : i < 8), t.H[i] = IV[i]) ∧ CompletedFrom s t ∧ SameOutside s t ∧
    t.W = s.W ∧ t.V = s.V ∧ t.KB = s.KB ∧ t.IS = s.IS ∧ t.latch = s.latch ∧ t.out = s.out ∧
    readValue 16 t = 0x6A09E667 ∧ readValue 23 t = 0x5BE0CD19

/-- R75: `COMPRESS` completes from every idle state; `H` is the compression of the block in `W[0..15]`, those words stay,
the words above them are the expanded ones. -/
def Obligations.CompressCompressesTheBlockInW : Prop :=
  ∀ s : State, isIdle s = true → ∃ t, exec .compress s = .next t ∧
    t.H = (compressBlock s.H s.W).H ∧ t.W = expand s.W ∧ (∀ (k : Nat) (h : k < 16), t.W[k] = s.W[k]) ∧
    CompletedFrom s t ∧ SameOutside s t ∧ t.KB = s.KB ∧ t.IS = s.IS ∧ t.latch = s.latch ∧ t.out = s.out

/-- R84: `PROCESS` completes whenever both checks pass, with `H = PS(H, DATA, DLEN, O)`; OUT, `KB` and `IS` stay. -/
def Obligations.ProcessRunsThePadderFromH : Prop :=
  ∀ s : State, isIdle s = true → s.dataLen.toNat + s.offset.toNat ≤ 2 ^ 61 - 1 →
    s.dataLen.toNat ≤ s.platform.dataCap → ∃ t, exec .process s = .next t ∧
      t.H = PS s.H s.data.read s.dataLen.toNat s.offset.toNat ∧
      CompletedFrom s t ∧ SameOutside s t ∧ t.KB = s.KB ∧ t.IS = s.IS ∧ t.out = s.out

/-- R92: `STORE_DIGEST` completes whenever the range check passes; it writes exactly the first `min(OUT_LEN, 32)` bytes of
`ser(H)` to OUT and changes no datapath state. -/
def Obligations.StoreDigestWritesThePrefix : Prop :=
  ∀ s : State, isIdle s = true → s.outLen.toNat ≤ s.platform.outCap → ∃ t, exec .storeDigest s = .next t ∧
    StoredDigest s.H s.outLen.toNat s.out t.out ∧
    CompletedFrom s t ∧ SameOutside s t ∧ t.H = s.H ∧ t.W = s.W ∧ t.V = s.V ∧ t.KB = s.KB ∧ t.IS = s.IS

/-- R93: `HASH` completes whenever the checks pass, with `H = PS(IV, DATA, DLEN, 0)` and its prefix in OUT; `KB` and `IS`
stay. -/
def Obligations.HashDigestsData : Prop :=
  ∀ s : State, isIdle s = true → s.dataLen.toNat ≤ 2 ^ 61 - 1 → s.dataLen.toNat ≤ s.platform.dataCap →
    s.outLen.toNat ≤ s.platform.outCap → ∃ t, exec .hash s = .next t ∧
      t.H = PS IV s.data.read s.dataLen.toNat 0 ∧ StoredDigest t.H s.outLen.toNat s.out t.out ∧
      CompletedFrom s t ∧ SameOutside s t ∧ t.KB = s.KB ∧ t.IS = s.IS

/-- R104: `HMAC` completes whenever the checks pass, with `KB`, `IS` and `H` as R100, R102 and R103 give them, and the
prefix of `ser(H)` in OUT. -/
def Obligations.HmacAuthenticatesData : Prop :=
  ∀ s : State, isIdle s = true → s.dataLen.toNat + 64 ≤ 2 ^ 61 - 1 → s.keyLen.toNat ≤ 2 ^ 61 - 1 →
    s.dataLen.toNat ≤ s.platform.dataCap → s.keyLen.toNat ≤ s.platform.keyCap →
    s.outLen.toNat ≤ s.platform.outCap → ∃ t, exec .hmac s = .next t ∧
      t.KB = keyBlock s.key.read s.keyLen.toNat ∧
      t.IS = PS (CB IV (padKey t.KB 0x36)) s.data.read s.dataLen.toNat 64 ∧
      t.H = PS (CB IV (padKey t.KB 0x5c)) (serByte t.IS) 32 64 ∧
      StoredDigest t.H s.outLen.toNat s.out t.out ∧ CompletedFrom s t ∧ SameOutside s t

/-- R93: the effect of `HASH` on `H` and OUT is that of `LOAD_IV`, `PROCESS` with `OFFSET = 0` and `STORE_DIGEST` issued
one after the other. -/
def Obligations.HashIsItsThreePartCommands : Prop :=
  ∀ s : State, isIdle s = true → s.dataLen.toNat ≤ 2 ^ 61 - 1 → s.dataLen.toNat ≤ s.platform.dataCap →
    s.outLen.toNat ≤ s.platform.outCap → ∃ a b c t,
      exec .loadIv s = .next a ∧ exec .process { a with offset := 0 } = .next b ∧ exec .storeDigest b = .next c ∧
      exec .hash s = .next t ∧ t.H = c.H ∧ t.out = c.out

/-- R94: what `HASH` and `HMAC` write with `OUT_LEN = n` is the first `min(n, 32)` bytes of what they write with
`OUT_LEN = 32`; the states they compute do not depend on `OUT_LEN`. -/
def Obligations.TruncationLaw : Prop :=
  ∀ (s : State) (n : Size) (i : Instr), i = .hash ∨ i = .hmac → isIdle s = true → s.out.wf = true →
    s.dataLen.toNat ≤ 2 ^ 61 - 1 → s.dataLen.toNat ≤ s.platform.dataCap →
    (i = .hmac → s.dataLen.toNat + 64 ≤ 2 ^ 61 - 1 ∧ s.keyLen.toNat ≤ 2 ^ 61 - 1 ∧
      s.keyLen.toNat ≤ s.platform.keyCap) →
    n.toNat ≤ s.platform.outCap → 32 ≤ s.platform.outCap → ∃ t u,
      exec i { s with outLen := n } = .next t ∧ exec i { s with outLen := 32 } = .next u ∧
      t.H = u.H ∧ t.KB = u.KB ∧ t.IS = u.IS ∧
      (∀ a, a < min n.toNat 32 → t.out.read a = u.out.read a) ∧
      (∀ a, min n.toNat 32 ≤ a → t.out.read a = s.out.read a)

/-- R8: what `HASH` and `HMAC` write does not depend on `H`, `W`, `OFFSET`, hidden elements, earlier commands or bytes at
or above the stated lengths, and `HASH` not on `KEY_LEN` or KEY. -/
def Obligations.HashAndHmacIgnoreLeftovers : Prop :=
  ∀ s s' : State, isIdle s = true → isIdle s' = true →
    s.dataLen = s'.dataLen → s.outLen = s'.outLen → s.platform = s'.platform →
    (∀ g, g < s.dataLen.toNat → s.data.read g = s'.data.read g) →
    s.out.wf = true → s'.out.wf = true →
    s.dataLen.toNat ≤ 2 ^ 61 - 1 → s.dataLen.toNat ≤ s.platform.dataCap →
    s.outLen.toNat ≤ s.platform.outCap →
    (∃ t t', exec .hash s = .next t ∧ exec .hash s' = .next t' ∧ t.H = t'.H ∧
      ∀ a, a < min s.outLen.toNat 32 → t.out.read a = t'.out.read a) ∧
    (s.keyLen = s'.keyLen → (∀ g, g < s.keyLen.toNat → s.key.read g = s'.key.read g) →
      s.dataLen.toNat + 64 ≤ 2 ^ 61 - 1 → s.keyLen.toNat ≤ 2 ^ 61 - 1 → s.keyLen.toNat ≤ s.platform.keyCap →
      ∃ t t', exec .hmac s = .next t ∧ exec .hmac s' = .next t' ∧ t.H = t'.H ∧ t.KB = t'.KB ∧ t.IS = t'.IS ∧
        ∀ a, a < min s.outLen.toNat 32 → t.out.read a = t'.out.read a)

/-- R130: no command stops the machine; its fault entries are next states. From every state whatever, and without
touching the operand registers, DATA, KEY or the capacities (R17, R44). -/
def Obligations.EveryCommandAnswersANextState : Prop :=
  ∀ (i : Instr) (s : State), ∃ t, exec i s = .next t ∧ SameOutside s t

/-! ## Faults -/

/-- R121: an illegal word written to `CMD` while idle, by either of the two moves that are that write (log entry 1). -/
def Obligations.IllegalWordFaults : Prop :=
  ∀ (s : State) (v : Word) (rest : List Move), isIdle s = true → (∀ i, v ≠ encode i) →
    s.host = .write 0 v :: rest ∨ s.host = .start v :: rest →
    ∃ t, step s = .next t ∧ FaultedWith .illegalCmd t ∧ SameDatapath s t ∧ SameOutside { s with host := rest } t

/-- R122: a write of any register while busy faults and abandons the command; a read never does. Of OUT only the bytes
`OUT[0..min(OLEN, 32))` of the abandoned command are open (R127). -/
def Obligations.WriteWhileBusyFaults : Prop :=
  ∀ (s : State) (rest : List Move), s.busy = true → s.fault = false →
    (∀ n v, s.host = .write n v :: rest →
      ∃ t, step s = .next t ∧ FaultedWith .accessWhileBusy t ∧ SameOutside { s with host := rest } t ∧
        ∀ a, min s.latch.OLEN.toNat 32 ≤ a → t.out.read a = s.out.read a) ∧
    (∀ v, s.host = .start v :: rest →
      ∃ t, step s = .next t ∧ FaultedWith .accessWhileBusy t ∧ SameOutside { s with host := rest } t ∧
        ∀ a, min s.latch.OLEN.toNat 32 ≤ a → t.out.read a = s.out.read a) ∧
    (∀ n, s.host = .read n :: rest →
      ∃ t, step s = .next t ∧ t.busy = true ∧ t.fault = false ∧ t.cause = s.cause ∧ t.seq = s.seq)

/-- R123: `LENGTH_RANGE` at acceptance, before the range check, under exactly the conditions of R87. -/
def Obligations.LengthRangeFaults : Prop :=
  ∀ s : State, isIdle s = true →
    (2 ^ 61 - 1 < s.dataLen.toNat + s.offset.toNat →
      ∃ t, exec .process s = .next t ∧ FaultedWith .lengthRange t ∧ SameDatapath s t ∧ SameOutside s t) ∧
    (2 ^ 61 - 1 < s.dataLen.toNat →
      ∃ t, exec .hash s = .next t ∧ FaultedWith .lengthRange t ∧ SameDatapath s t ∧ SameOutside s t) ∧
    (2 ^ 61 - 1 < s.dataLen.toNat + 64 ∨ 2 ^ 61 - 1 < s.keyLen.toNat →
      ∃ t, exec .hmac s = .next t ∧ FaultedWith .lengthRange t ∧ SameDatapath s t ∧ SameOutside s t) ∧
    (∀ i t, exec i s = .next t → FaultedWith .lengthRange t →
      (i = .process ∧ 2 ^ 61 - 1 < s.dataLen.toNat + s.offset.toNat) ∨
      (i = .hash ∧ 2 ^ 61 - 1 < s.dataLen.toNat) ∨
      (i = .hmac ∧ (2 ^ 61 - 1 < s.dataLen.toNat + 64 ∨ 2 ^ 61 - 1 < s.keyLen.toNat)))

/-- R124: `BUFFER_RANGE` at acceptance under the conditions of R38, once the length check has passed, and
under no other. -/
def Obligations.BufferRangeFaults : Prop :=
  ∀ s : State, isIdle s = true →
    (s.dataLen.toNat + s.offset.toNat ≤ 2 ^ 61 - 1 → s.platform.dataCap < s.dataLen.toNat →
      ∃ t, exec .process s = .next t ∧ FaultedWith .bufferRange t ∧ SameDatapath s t ∧ SameOutside s t) ∧
    (s.platform.outCap < s.outLen.toNat →
      ∃ t, exec .storeDigest s = .next t ∧ FaultedWith .bufferRange t ∧ SameDatapath s t ∧ SameOutside s t) ∧
    (s.dataLen.toNat ≤ 2 ^ 61 - 1 →
      s.platform.dataCap < s.dataLen.toNat ∨ s.platform.outCap < s.outLen.toNat →
      ∃ t, exec .hash s = .next t ∧ FaultedWith .bufferRange t ∧ SameDatapath s t ∧ SameOutside s t) ∧
    (s.dataLen.toNat + 64 ≤ 2 ^ 61 - 1 → s.keyLen.toNat ≤ 2 ^ 61 - 1 →
      s.platform.dataCap < s.dataLen.toNat ∨ s.platform.keyCap < s.keyLen.toNat ∨
        s.platform.outCap < s.outLen.toNat →
      ∃ t, exec .hmac s = .next t ∧ FaultedWith .bufferRange t ∧ SameDatapath s t ∧ SameOutside s t) ∧
    (∀ i t, exec i s = .next t → FaultedWith .bufferRange t →
      (i = .process ∧ s.platform.dataCap < s.dataLen.toNat) ∨
      (i = .storeDigest ∧ s.platform.outCap < s.outLen.toNat) ∨
      (i = .hash ∧ (s.platform.dataCap < s.dataLen.toNat ∨ s.platform.outCap < s.outLen.toNat)) ∨
      (i = .hmac ∧ (s.platform.dataCap < s.dataLen.toNat ∨ s.platform.keyCap < s.keyLen.toNat ∨
        s.platform.outCap < s.outLen.toNat)))

/-- R125: a write to `STATUS`, `FAULT_CAUSE` or a reserved index while idle. -/
def Obligations.IllegalAccessFaults : Prop :=
  ∀ (s : State) (n : BitVec 7) (v : Word) (rest : List Move), isIdle s = true → s.host = .write n v :: rest →
    (1 ≤ n.toNat ∧ n.toNat ≤ 3) ∨ (12 ≤ n.toNat ∧ n.toNat ≤ 15) ∨ (24 ≤ n.toNat ∧ n.toNat ≤ 31) ∨ 96 ≤ n.toNat →
    ∃ t, step s = .next t ∧ FaultedWith .illegalAccess t ∧ SameDatapath s t ∧ SameOutside { s with host := rest } t

/-- R126 item 1, R23 item 5: in the faulted state every register write is ignored, a command's word included. -/
def Obligations.FaultedBlockIgnoresWrites : Prop :=
  ∀ (s : State) (rest : List Move), s.fault = true →
    (∀ n v, s.host = .write n v :: rest → step s = .next { s with host := rest }) ∧
    (∀ v, s.host = .start v :: rest → step s = .next { s with host := rest })

/-- R128: nothing but reset clears `FAULT`, nothing raises a second fault, and after reset the block is as after
power-up. -/
def Obligations.FaultIsStickyUntilReset : Prop :=
  (∀ s t : State, s.fault = true → (∀ rest, s.host ≠ .reset :: rest) → step s = .next t →
    t.fault = true ∧ t.cause = s.cause) ∧
  (∀ (s : State) (rest : List Move), s.host = .reset :: rest → ∃ t, step s = .next t ∧
    t.fault = State.reset.fault ∧ t.busy = State.reset.busy ∧ t.done = State.reset.done ∧
    t.cause = State.reset.cause ∧ t.seq = State.reset.seq ∧ t.dataLen = State.reset.dataLen ∧
    t.keyLen = State.reset.keyLen ∧ t.outLen = State.reset.outLen ∧ t.offset = State.reset.offset)

/-! ## Reset -/

/-- R27: the values the spec gives for reset. -/
def Obligations.ResetStateValues : Prop :=
  statusWord State.reset = 0 ∧ causeWord State.reset = 0 ∧
  State.reset.dataLen = 0 ∧ State.reset.keyLen = 0 ∧ State.reset.outLen = 0 ∧ State.reset.offset = 0 ∧
  State.reset.seq = ⟨none, .idle, .fill, 0⟩

/-- R140: `RESET` in any state, busy and faulted ones included: control and operand registers, `SEQ` and the outputs; DATA
and KEY are untouched, and so is every byte of OUT but those a command in flight might have been writing. -/
def Obligations.ResetActionInAnyState : Prop :=
  ∀ (s : State) (rest : List Move), s.host = .reset :: rest → ∃ t, step s = .next t ∧
    statusWord t = 0 ∧ causeWord t = 0 ∧ t.dataLen = 0 ∧ t.keyLen = 0 ∧ t.outLen = 0 ∧ t.offset = 0 ∧
    t.seq = Seq.rest ∧ doneOutput t = false ∧ faultOutput t = false ∧
    t.data = s.data ∧ t.key = s.key ∧ t.platform = s.platform ∧
    (∀ a, 32 ≤ a → t.out.read a = s.out.read a) ∧
    (s.busy = true → ∀ a, s.latch.OLEN.toNat ≤ a → t.out.read a = s.out.read a) ∧
    (s.busy = false → ∀ a, t.out.read a = s.out.read a)

/-! ## Registers -/

/-- R21, R22: the bits of `STATUS` and `FAULT_CAUSE` as read, the legal values of `STATUS`, and the outputs that copy its
bits (R129). -/
def Obligations.StatusBits : Prop :=
  (∀ s : State, (statusWord s).getLsbD 0 = s.busy ∧ (statusWord s).getLsbD 1 = s.done ∧
    (statusWord s).getLsbD 2 = s.fault ∧ (∀ k, 3 ≤ k → (statusWord s).getLsbD k = false) ∧
    (causeWord s).extractLsb' 0 3 = s.cause ∧ (∀ k, 3 ≤ k → (causeWord s).getLsbD k = false) ∧
    doneOutput s = (statusWord s).getLsbD 1 ∧ faultOutput s = (statusWord s).getLsbD 2) ∧
  (∀ s : State, StatusLegal s →
    (statusWord s = 0 ∨ statusWord s = 1 ∨ statusWord s = 2 ∨ statusWord s = 4) ∧
    (s.fault = false → causeWord s = 0) ∧
    (s.fault = true → 1 ≤ (causeWord s).toNat ∧ (causeWord s).toNat ≤ 5))

/-- R23 items 1 to 4: what a read returns, and that it changes nothing of the block. -/
def Obligations.RegisterReads : Prop :=
  (∀ s : State, readValue 0 s = 0 ∧ readValue 1 s = statusWord s ∧ readValue 2 s = causeWord s) ∧
  (∀ (s : State) (n : BitVec 7),
    n.toNat = 3 ∨ (12 ≤ n.toNat ∧ n.toNat ≤ 15) ∨ (24 ≤ n.toNat ∧ n.toNat ≤ 31) ∨ 96 ≤ n.toNat →
    readValue n s = 0) ∧
  (∀ s : State, isIdle s = true →
    readValue 4 s = s.dataLen.extractLsb' 0 32 ∧ readValue 5 s = s.dataLen.extractLsb' 32 32 ∧
    readValue 6 s = s.keyLen.extractLsb' 0 32 ∧ readValue 7 s = s.keyLen.extractLsb' 32 32 ∧
    readValue 8 s = s.outLen.extractLsb' 0 32 ∧ readValue 9 s = s.outLen.extractLsb' 32 32 ∧
    readValue 10 s = s.offset.extractLsb' 0 32 ∧ readValue 11 s = s.offset.extractLsb' 32 32 ∧
    (∀ (i : Nat) (h : i < 8), readValue (BitVec.ofNat 7 (16 + i)) s = s.H[i]) ∧
    (∀ (t : Nat) (h : t < 64), readValue (BitVec.ofNat 7 (32 + t)) s = s.W[t])) ∧
  (∀ (s : State) (n : BitVec 7) (rest : List Move), s.host = .read n :: rest → ∃ t, step s = .next t ∧
    t.regRead = readValue n s ∧ SameDatapath s t ∧ t.latch = s.latch ∧
    SameOutside { s with host := rest, regRead := readValue n s } t ∧
    t.busy = s.busy ∧ t.done = s.done ∧ t.fault = s.fault ∧ t.cause = s.cause ∧ t.seq = s.seq)

/-- R23 item 8: an RW register written while idle takes the word; every other register reads as before, `DONE` and all
hidden state are unchanged, and so is every buffer byte. -/
def Obligations.RegisterWriteTakesTheWord : Prop :=
  ∀ (s : State) (n : BitVec 7) (v : Word) (rest : List Move), isIdle s = true → s.host = .write n v :: rest →
    (4 ≤ n.toNat ∧ n.toNat ≤ 11) ∨ (16 ≤ n.toNat ∧ n.toNat ≤ 23) ∨ (32 ≤ n.toNat ∧ n.toNat ≤ 95) →
    ∃ t, step s = .next t ∧ readValue n t = v ∧ (∀ m, m ≠ n → readValue m t = readValue m s) ∧
      t.host = rest ∧ t.V = s.V ∧ t.KB = s.KB ∧ t.IS = s.IS ∧ t.latch = s.latch ∧ t.seq = s.seq ∧
      t.busy = s.busy ∧ t.done = s.done ∧ t.fault = s.fault ∧ t.cause = s.cause ∧
      t.data = s.data ∧ t.key = s.key ∧ t.out = s.out ∧ t.platform = s.platform

/-- R34: the two halves of an operand register may be written in any order; the value is `HI ‖ LO`. -/
def Obligations.OperandHalvesInAnyOrder : Prop :=
  ∀ (s : State) (o : Operand) (lo hi : Word), isIdle s = true →
    operandValue (writeRegister (indexOf (.operand o .hi)) hi (writeRegister (indexOf (.operand o .lo)) lo s)) o
      = hi ++ lo ∧
    operandValue (writeRegister (indexOf (.operand o .lo)) lo (writeRegister (indexOf (.operand o .hi)) hi s)) o
      = hi ++ lo

/-- R23: the index map; a named register is found at its index, and the indexes that name none are the reserved ones.
R4, D2: whatever injective `REG_BINDING` the platform has, an access at the bus address of an index is the access of that
index; an address nothing is bound to is none of the block's (log entry 17). -/
def Obligations.RegisterMap : Prop :=
  (∀ r : Reg, regAt (indexOf r) = some r) ∧
  (∀ (n : BitVec 7) (r : Reg), regAt n = some r → indexOf r = n) ∧
  (∀ n : BitVec 7, regAt n = none ↔
    n.toNat = 3 ∨ (12 ≤ n.toNat ∧ n.toNat ≤ 15) ∨ (24 ≤ n.toNat ∧ n.toNat ≤ 31) ∨ 96 ≤ n.toNat) ∧
  (∀ (s : State) (n : BitVec 7) (addr : Nat) (rest : List Move), s.platform.bindingOk →
    s.platform.regBinding[n.toNat]'(n.isLt) = addr →
    (∀ v, step { s with host := .bus addr (.write v) :: rest } = step { s with host := .write n v :: rest }) ∧
    step { s with host := .bus addr .read :: rest } = step { s with host := .read n :: rest } ∧
    (∀ v, step { s with host := .bus addr (.start v) :: rest } =
      step { s with host := (if n = 0 then .start v else .write n v) :: rest })) ∧
  (∀ (s : State) (addr : Nat) (acc : BusAccess) (rest : List Move),
    (∀ (k : Nat) (h : k < 128), s.platform.regBinding[k] ≠ addr) → s.host = .bus addr acc :: rest →
    step s = .refused (.noRegisterAt addr))

/-- R26: no hidden element (`V`, `KB`, `IS`, the latches, `SEQ`) reaches the host: states that agree on the readable
elements give the same word for every register read and the same byte for every OUT read; while a command is in flight,
also on what it stores, since R145 lets such a read return the old or the new byte. The premise on `draws` makes the unspecified
values the same too (log entry 3). -/
def Obligations.HiddenStateIsUnreadable : Prop :=
  ∀ s s' : State, s.H = s'.H → s.W = s'.W → s.dataLen = s'.dataLen → s.keyLen = s'.keyLen →
    s.outLen = s'.outLen → s.offset = s'.offset → s.busy = s'.busy → s.done = s'.done → s.fault = s'.fault →
    s.cause = s'.cause → s.out = s'.out → s.draws = s'.draws →
    (∀ n, readValue n s = readValue n s') ∧
    (∀ a, (s.busy = true → outInFlight s = outInFlight s' ∧ newOutByte a s = newOutByte a s') →
      peekValue a s = peekValue a s')

/-! ## Buffer spaces -/

/-- R30, R44: a host write of a buffer byte while the block is not busy changes that byte of that space and nothing
else. -/
def Obligations.BufferWriteChangesOneByte : Prop :=
  ∀ (s : State) (sp : Space) (a : Nat) (b : Byte) (rest : List Move), s.busy = false →
    s.host = .poke sp a b :: rest → a < capacity s.platform sp → (spaceBytes s sp).wf = true →
    ∃ t, step s = .next t ∧ (spaceBytes t sp).read a = b ∧
      (∀ sp' a', (sp' ≠ sp ∨ a' ≠ a) → (spaceBytes t sp').read a' = (spaceBytes s sp').read a') ∧
      t.H = s.H ∧ t.W = s.W ∧ t.V = s.V ∧ t.KB = s.KB ∧ t.IS = s.IS ∧ t.latch = s.latch ∧ t.seq = s.seq ∧
      t.busy = s.busy ∧ t.done = s.done ∧ t.fault = s.fault ∧ t.cause = s.cause ∧ t.dataLen = s.dataLen ∧
      t.keyLen = s.keyLen ∧ t.outLen = s.outLen ∧ t.offset = s.offset ∧ t.platform = s.platform

/-- R30, R40 (d): a host read of an OUT byte while no command is in flight returns the byte. R145: while one is, it returns
the old byte or the one the command leaves there, and the old one wherever the command stores nothing. A read changes
nothing of the block. -/
def Obligations.OutReadReturnsTheByte : Prop :=
  ∀ (s : State) (a : Nat) (rest : List Move), s.host = .peek a :: rest → a < s.platform.outCap →
    ∃ t, step s = .next t ∧
      (s.busy = false → t.byteRead = s.out.read a) ∧
      (t.byteRead = s.out.read a ∨ t.byteRead = newOutByte a s) ∧
      (min s.latch.OLEN.toNat 32 ≤ a → t.byteRead = s.out.read a) ∧
      ((∀ i, s.seq.op = some i → i = .loadIv ∨ i = .compress ∨ i = .process) → t.byteRead = s.out.read a) ∧
      SameDatapath s t ∧ t.latch = s.latch ∧ t.seq = s.seq ∧ t.busy = s.busy ∧ t.done = s.done ∧
      t.fault = s.fault ∧ t.cause = s.cause ∧ t.raced = s.raced ∧
      SameOutside { s with host := rest, byteRead := t.byteRead } t

/-- R145: when the host writes a DATA or KEY byte while busy, the engine sees the old or the new byte there, and every
other byte as before; the command goes on. One choice a write is the model's (log entry 8). -/
def Obligations.RacedByteIsOldOrNew : Prop :=
  ∀ (s : State) (sp : Space) (a : Nat) (b : Byte) (rest : List Move), s.busy = true → sp ≠ .out →
    s.host = .poke sp a b :: rest → a < capacity s.platform sp →
    ∃ t, step s = .next t ∧ (engineByte t sp a = engineByte s sp a ∨ engineByte t sp a = b) ∧
      (∀ sp' a', (sp' ≠ sp ∨ a' ≠ a) → engineByte t sp' a' = engineByte s sp' a') ∧
      t.busy = true ∧ t.fault = s.fault ∧ t.seq = s.seq ∧ SameDatapath s t ∧ t.latch = s.latch

/-- R44, R31: DATA and KEY change only by host writes, the capacities never. -/
def Obligations.OnlyTheHostWritesDataAndKey : Prop :=
  ∀ s t : State, step s = .next t → t.platform = s.platform ∧
    ((∀ sp a b rest, s.host ≠ .poke sp a b :: rest) → t.data = s.data ∧ t.key = s.key)

/-! ## The whole machine -/

/-- The reset state is legal, and its register binding is one D2 allows (log entry 17). -/
def Obligations.ResetStateIsLegal : Prop := Legal State.reset ∧ State.reset.platform.bindingOk

/-- R19, R21, R22, R30, R38: every step from a legal state leads to a legal state: legal status and cause, buffer spaces in
canonical form below their capacities, `SEQ` at rest or at a position the command in flight can be in, every counter
within its bound. -/
def Obligations.StepKeepsStatesLegal : Prop :=
  ∀ s t : State, Legal s → step s = .next t → Legal t

/-- R20: a write to `CMD` is the only way to start a command. The step that leaves a command in flight is one form of
that write, and the step in which a command completes is the other (log entry 1); each is made by index or by bus
address. -/
def Obligations.OnlyACommandWriteStartsACommand : Prop :=
  ∀ s t : State, s.busy = false → step s = .next t →
    (t.busy = true → ∃ m rest v i, s.host = m :: rest ∧ boundMove s.platform m = .start v ∧ decode v = .ok i ∧
      isIdle s = true ∧ t.seq.op = some i ∧ t.done = false) ∧
    (s.done = false → t.done = true → ∃ m rest v i, s.host = m :: rest ∧
      boundMove s.platform m = .write 0 v ∧ decode v = .ok i ∧ isIdle s = true)

/-- R18, R144: a change of an operand register cannot reach a command in flight: the engine runs on the latched values. -/
def Obligations.OperandsDoNotReachACommandInFlight : Prop :=
  ∀ (s : State) (o : Operand) (v : Size) (k : Nat),
    engineTurns k (setOperand o v s) = setOperand o v (engineTurns k s)

/-- R150: running an accepted command as one atomic step gives the state the engine reaches from acceptance by its own
steps, after the number of steps `engineSteps` says and no sooner. The cut into steps is the model's (log entry 15), and so
are the values left free at completion (log entries 3 and 12). What a host may read early from OUT (R145) is what the
command leaves there. -/
def Obligations.AtomicCommandIsTheEngineRun : Prop :=
  ∀ (i : Instr) (s a : State), s.busy = false → begin i s = .next a → a.busy = true →
    exec i s = .next (engineTurns (engineSteps i a.latch) a) ∧
    (∀ k, k < engineSteps i a.latch → (engineTurns k a).busy = true) ∧
    ∀ n t, exec i s = .next t → newOutByte n a = t.out.read n

/-- R153: from every legal state with a command in flight the engine completes it, in the model's steps (log entry 15). -/
def Obligations.EveryAcceptedCommandCompletes : Prop :=
  ∀ s : State, Legal s → s.busy = true →
    ∃ k, (engineTurns k s).busy = false ∧ (engineTurns k s).done = true ∧ (engineTurns k s).fault = false

/-- R143: a host that keeps the hazard rules keeps them at every step, and `ACCESS_WHILE_BUSY` is never raised. -/
def Obligations.CarefulHostNeverFaultsBusy : Prop :=
  ∀ s t : State, keepsHazards s.busy s.host = true → step s = .next t →
    keepsHazards t.busy t.host = true ∧
    (t.cause = causeCode .accessWhileBusy → s.cause = causeCode .accessWhileBusy)
end

