-- ==== Sys2Proof/Laws/Blocks.lean ====
section
/-! SUPPORT. The elements of blocks, schedules and serialised states; expansion, rounds and padder runs by induction. -/

namespace Sys2Proof.Machine

@[simp] theorem loadBlock_block (B : Block) (w : Schedule) (t : Nat) (h : t < 16) :
    (loadBlock B w)[t] = be32 B[4 * t] B[4 * t + 1] B[4 * t + 2] B[4 * t + 3] := by
  simp [loadBlock, h]

@[simp] theorem loadBlock_above (B : Block) (w : Schedule) (t : Nat) (h16 : 16 ≤ t) (h : t < 64) :
    (loadBlock B w)[t] = w[t] := by
  simp [loadBlock, show ¬ t < 16 by omega]

@[simp] theorem paddedBlock_get (src : Nat → Byte) (L O i j : Nat) (h : j < 64) :
    (paddedBlock src L O i)[j] = paddedByte src L O i j := by
  simp [paddedBlock]

@[simp] theorem padKey_get (KB : Block) (p : Byte) (j : Nat) (h : j < 64) : (padKey KB p)[j] = KB[j] ^^^ p := by
  simp [padKey]

@[simp] theorem ser_get (S : Hash) (n : Nat) (h : n < 32) : (ser S)[n] = serByte S n := by
  simp [ser]

@[simp] theorem digestPrefix_length (S : Hash) (olen : Nat) :
    (digestPrefix S olen).length = min olen digestBytes := by
  simp [digestPrefix]

@[simp] theorem digestPrefix_get (S : Hash) (olen n : Nat) (h : n < (digestPrefix S olen).length) :
    (digestPrefix S olen)[n] = serByte S n := by
  simp [digestPrefix]

@[simp] theorem freeOut_length (draw n : Nat) : (freeOut draw n).length = n := by
  simp [freeOut]

/-- A round constant by its row and column in the table of R65. -/
theorem K_get (t : Nat) (h : t < 64) : K[t] = rowWord (constantRow (t / 8)) (t % 8) := by
  simp [K]

/-- One expansion assignment writes its own word only. -/
theorem expandAt_other (w : Schedule) (t k : Nat) (h : k < 64) (hk : k ≠ t) : (expandAt w t)[k] = w[k] := by
  unfold expandAt
  split
  · exact Vector.getElem_set_ne _ _ (Ne.symm hk)
  · rfl

/-- The word one expansion assignment writes. -/
theorem expandAt_same (w : Schedule) (t : Nat) (h : 16 ≤ t ∧ t < 64) :
    (expandAt w t)[t] = add32 [w[t - 16], w[t - 7], ssig0 w[t - 15], ssig1 w[t - 2]] := by
  simp [expandAt, h]

/-- Expansion from `t` leaves the words below `t` alone. -/
theorem expandFrom_below (n t : Nat) (w : Schedule) (k : Nat) (h : k < 64) (hk : k < t) :
    (expandFrom n t w)[k] = w[k] := by
  induction n generalizing t w with
  | zero => rfl
  | succ n ih => rw [expandFrom, ih _ _ (by omega), expandAt_other _ _ _ _ (by omega)]

/-- Expansion of the last `n` words depends only on the words below them. -/
theorem expandFrom_congr (n t : Nat) (ht : 16 ≤ t) (hn : t + n = 64) (w w' : Schedule)
    (h : ∀ (k : Nat) (hk : k < t), w[k]'(by omega) = w'[k]'(by omega)) : expandFrom n t w = expandFrom n t w' := by
  induction n generalizing t w w' with
  | zero => exact Vector.ext fun k hk => h k (by omega)
  | succ n ih =>
    refine ih (t + 1) (by omega) (by omega) _ _ fun k hk => ?_
    by_cases hkt : k = t
    · subst hkt
      rw [expandAt_same _ _ ⟨ht, by omega⟩, expandAt_same _ _ ⟨ht, by omega⟩, h (k - 16) (by omega),
        h (k - 7) (by omega), h (k - 15) (by omega), h (k - 2) (by omega)]
    · rw [expandAt_other _ _ _ (by omega) hkt, expandAt_other _ _ _ (by omega) hkt, h k (by omega)]

/-- A block's bytes reach a padder run only below the length. -/
theorem paddedByte_congr (src src' : Nat → Byte) (L O i j : Nat) (h : ∀ g, g < L → src g = src' g) :
    paddedByte src L O i j = paddedByte src' L O i j := by
  unfold paddedByte
  simp only
  split
  · rfl
  · split
    · exact h _ ‹_›
    · rfl

/-- A run of `m + n` blocks is a run of `m` and then one of `n`. -/
theorem padRunFrom_add (src : Nat → Byte) (L O m n i : Nat) (S : Hash) :
    padRunFrom src L O (m + n) i S = padRunFrom src L O n (i + m) (padRunFrom src L O m i S) := by
  induction m generalizing i S with
  | zero => simp [padRunFrom]
  | succ m ih =>
    rw [show m + 1 + n = (m + n) + 1 by omega, padRunFrom, padRunFrom, ih]
    congr 1
    omega

end Sys2Proof.Machine
end

