-- ==== Sys2Proof/Laws/Memory.lean ====
section
/-! SUPPORT. The laws of the buffer spaces: reads after writes, and that every memory operation keeps the canonical form. -/

namespace Sys2Proof.Machine

/-- A write leaves every other index alone. -/
theorem Memory.read_write_other (m : Memory) (a b : Nat) (v : Byte) (h : b ≠ a) :
    (m.write a v).read b = m.read b := by
  induction m with
  | nil => by_cases hv : v = blankByte <;> simp [Memory.write, Memory.read, hv, h]
  | cons c m ih =>
    obtain ⟨k, x⟩ := c
    by_cases h1 : a < k
    · by_cases hv : v = blankByte <;> simp [Memory.write, Memory.read, h1, hv, h]
    · by_cases h2 : a = k
      · subst h2
        by_cases hv : v = blankByte <;> simp [Memory.write, Memory.read, hv, h]
      · simp [Memory.write, Memory.read, h1, h2, ih]

/-- Below the first index a canonical list reads as blank. -/
theorem Memory.read_below (m : Memory) (lo a : Nat) (hw : Memory.wfFrom lo m = true) (h : a < lo) :
    m.read a = blankByte := by
  induction m generalizing lo with
  | nil => rfl
  | cons c m ih =>
    obtain ⟨k, x⟩ := c
    simp only [Memory.wfFrom, Bool.and_eq_true, decide_eq_true_eq] at hw
    have hk : a ≠ k := by omega
    simp [Memory.read, hk, ih (k + 1) hw.2 (by omega)]

/-- A read gives back the byte written. -/
theorem Memory.read_write_same_from (m : Memory) (lo a : Nat) (v : Byte) (hw : Memory.wfFrom lo m = true) :
    (m.write a v).read a = v := by
  induction m generalizing lo with
  | nil => by_cases hv : v = blankByte <;> simp [Memory.write, Memory.read, hv]
  | cons c m ih =>
    obtain ⟨k, x⟩ := c
    simp only [Memory.wfFrom, Bool.and_eq_true, decide_eq_true_eq] at hw
    by_cases h1 : a < k
    · have hk : a ≠ k := by omega
      by_cases hv : v = blankByte
      · simp [Memory.write, Memory.read, h1, hv, hk, Memory.read_below m (k + 1) a hw.2 (by omega)]
      · simp [Memory.write, Memory.read, h1, hv]
    · by_cases h2 : a = k
      · subst h2
        by_cases hv : v = blankByte
        · simp [Memory.write, hv, Memory.read_below m (a + 1) a hw.2 (by omega)]
        · simp [Memory.write, Memory.read, hv]
      · simp [Memory.write, Memory.read, h1, h2, ih (k + 1) hw.2]

/-- A read of a canonical space gives back the byte written. -/
theorem Memory.read_write_same (m : Memory) (a : Nat) (v : Byte) (hw : m.wf = true) : (m.write a v).read a = v :=
  Memory.read_write_same_from m 0 a v hw

theorem Memory.wfFrom_write (m : Memory) (lo a : Nat) (v : Byte) (hw : Memory.wfFrom lo m = true) (h : lo ≤ a) :
    Memory.wfFrom lo (m.write a v) = true := by
  induction m generalizing lo with
  | nil => by_cases hv : v = blankByte <;> simp [Memory.write, Memory.wfFrom, hv, h]
  | cons c m ih =>
    obtain ⟨k, x⟩ := c
    have hw' := hw
    simp only [Memory.wfFrom, Bool.and_eq_true, decide_eq_true_eq] at hw
    by_cases h1 : a < k
    · by_cases hv : v = blankByte
      · simpa [Memory.write, h1, hv] using hw'
      · simp [Memory.write, Memory.wfFrom, h1, hv, h, hw.1.2, hw.2]
    · by_cases h2 : a = k
      · subst h2
        by_cases hv : v = blankByte
        · have hm : ∀ (m : Memory) (p q : Nat), p ≤ q → Memory.wfFrom q m = true → Memory.wfFrom p m = true := by
            intro m p q hpq hq
            cases m with
            | nil => rfl
            | cons c m =>
              obtain ⟨k, x⟩ := c
              simp only [Memory.wfFrom, Bool.and_eq_true, decide_eq_true_eq] at hq ⊢
              exact ⟨⟨by omega, hq.1.2⟩, hq.2⟩
          simp [Memory.write, hv, hm m lo (a + 1) (by omega) hw.2]
        · simp [Memory.write, Memory.wfFrom, hv, h, hw.2]
      · simp [Memory.write, Memory.wfFrom, h1, h2, hw.1.1, hw.1.2, ih (k + 1) hw.2 (by omega)]

/-- A write keeps the canonical form. -/
theorem Memory.wf_write (m : Memory) (a : Nat) (v : Byte) (hw : m.wf = true) : (m.write a v).wf = true :=
  Memory.wfFrom_write m 0 a v hw (Nat.zero_le a)

/-- Byte writes in a row keep the canonical form. -/
theorem Memory.wf_writeBytes (bs : List Byte) (m : Memory) (a : Nat) (hw : m.wf = true) :
    (m.writeBytes a bs).wf = true := by
  induction bs generalizing m a with
  | nil => exact hw
  | cons b bs ih => exact ih _ _ (Memory.wf_write m a b hw)

/-- Byte writes in a row leave every index outside their range alone. -/
theorem Memory.read_writeBytes_outside (bs : List Byte) (m : Memory) (a b : Nat)
    (h : b < a ∨ a + bs.length ≤ b) : (m.writeBytes a bs).read b = m.read b := by
  induction bs generalizing m a with
  | nil => rfl
  | cons x bs ih =>
    simp only [List.length_cons] at h
    rw [Memory.writeBytes, ih _ _ (by omega), Memory.read_write_other _ _ _ _ (by omega)]

/-- Byte writes in a row can be read back. -/
theorem Memory.read_writeBytes_inside (bs : List Byte) (m : Memory) (a i : Nat) (hw : m.wf = true)
    (h : i < bs.length) : (m.writeBytes a bs).read (a + i) = bs[i] := by
  induction bs generalizing m a i with
  | nil => simp at h
  | cons x bs ih =>
    cases i with
    | zero =>
      rw [Memory.writeBytes, Memory.read_writeBytes_outside _ _ _ _ (by omega)]
      exact Memory.read_write_same m a x hw
    | succ i =>
      rw [Memory.writeBytes, show a + (i + 1) = a + 1 + i by omega,
        ih _ _ i (Memory.wf_write m a x hw) (by simpa using h)]
      rfl

/-- Every listed cell of a space lies below `cap`. -/
theorem Memory.below_write (m : Memory) (a cap : Nat) (v : Byte) (ha : a < cap) (hm : ∀ c ∈ m, c.1 < cap) :
    ∀ c ∈ m.write a v, c.1 < cap := by
  induction m with
  | nil => by_cases hv : v = blankByte <;> simp [Memory.write, hv, ha]
  | cons c m ih =>
    obtain ⟨k, x⟩ := c
    simp only [List.mem_cons, forall_eq_or_imp] at hm
    by_cases h1 : a < k
    · by_cases hv : v = blankByte <;> simp [Memory.write, h1, hv, ha, hm.1] <;> exact fun p q h => hm.2 (p, q) h
    · by_cases h2 : a = k
      · by_cases hv : v = blankByte <;> simp [Memory.write, h2, hv, hm.1] <;> exact fun p q h => hm.2 (p, q) h
      · simp only [Memory.write, h1, h2, if_false, List.mem_cons, forall_eq_or_imp]
        exact ⟨hm.1, ih hm.2⟩

/-- Byte writes in a row below `cap` keep every listed cell below `cap`. -/
theorem Memory.below_writeBytes (bs : List Byte) (m : Memory) (a cap : Nat) (ha : a + bs.length ≤ cap)
    (hm : ∀ c ∈ m, c.1 < cap) : ∀ c ∈ m.writeBytes a bs, c.1 < cap := by
  induction bs generalizing m a with
  | nil => exact hm
  | cons b bs ih =>
    simp only [List.length_cons] at ha
    exact ih _ _ (by omega) (Memory.below_write m a cap b (by omega) hm)

/-- A command in flight stores at most `min(OLEN, 32)` bytes. -/
theorem outInFlight_le (s : State) : outInFlight s ≤ min s.latch.OLEN.toNat 32 := by
  unfold outInFlight
  split
  · split <;> omega
  · omega

/-- With no command in flight none is being stored. -/
theorem outInFlight_idle (s : State) (h : s.busy = false) : outInFlight s = 0 := by
  unfold outInFlight
  split <;> simp [h]

/-- The reset state's spaces are in canonical form. -/
theorem State.reset_wf : State.reset.data.wf = true ∧ State.reset.key.wf = true ∧ State.reset.out.wf = true :=
  ⟨rfl, rfl, rfl⟩

end Sys2Proof.Machine
end

