-- ==== Sys2Proof/Laws/State.lean ====
section
/-! SUPPORT. One lemma per field of the state per named update, so that no later proof unfolds a record update. -/

namespace Sys2Proof.Machine

/-! ## `markAccepted` -/

@[simp] theorem markAccepted_H (s : State) : (markAccepted s).H = s.H := rfl
@[simp] theorem markAccepted_W (s : State) : (markAccepted s).W = s.W := rfl
@[simp] theorem markAccepted_V (s : State) : (markAccepted s).V = s.V := rfl
@[simp] theorem markAccepted_KB (s : State) : (markAccepted s).KB = s.KB := rfl
@[simp] theorem markAccepted_IS (s : State) : (markAccepted s).IS = s.IS := rfl
@[simp] theorem markAccepted_dataLen (s : State) : (markAccepted s).dataLen = s.dataLen := rfl
@[simp] theorem markAccepted_keyLen (s : State) : (markAccepted s).keyLen = s.keyLen := rfl
@[simp] theorem markAccepted_outLen (s : State) : (markAccepted s).outLen = s.outLen := rfl
@[simp] theorem markAccepted_offset (s : State) : (markAccepted s).offset = s.offset := rfl
@[simp] theorem markAccepted_latch (s : State) : (markAccepted s).latch = s.latch := rfl
@[simp] theorem markAccepted_seq (s : State) : (markAccepted s).seq = s.seq := rfl
@[simp] theorem markAccepted_busy (s : State) : (markAccepted s).busy = true := rfl
@[simp] theorem markAccepted_done (s : State) : (markAccepted s).done = false := rfl
@[simp] theorem markAccepted_fault (s : State) : (markAccepted s).fault = s.fault := rfl
@[simp] theorem markAccepted_cause (s : State) : (markAccepted s).cause = s.cause := rfl
@[simp] theorem markAccepted_data (s : State) : (markAccepted s).data = s.data := rfl
@[simp] theorem markAccepted_key (s : State) : (markAccepted s).key = s.key := rfl
@[simp] theorem markAccepted_out (s : State) : (markAccepted s).out = s.out := rfl
@[simp] theorem markAccepted_platform (s : State) : (markAccepted s).platform = s.platform := rfl
@[simp] theorem markAccepted_host (s : State) : (markAccepted s).host = s.host := rfl
@[simp] theorem markAccepted_regRead (s : State) : (markAccepted s).regRead = s.regRead := rfl
@[simp] theorem markAccepted_byteRead (s : State) : (markAccepted s).byteRead = s.byteRead := rfl
@[simp] theorem markAccepted_raced (s : State) : (markAccepted s).raced = s.raced := rfl
@[simp] theorem markAccepted_draws (s : State) : (markAccepted s).draws = s.draws := rfl

/-! ## `markCompleted` -/

@[simp] theorem markCompleted_H (s : State) : (markCompleted s).H = s.H := rfl
@[simp] theorem markCompleted_W (s : State) : (markCompleted s).W = s.W := rfl
@[simp] theorem markCompleted_V (s : State) : (markCompleted s).V = s.V := rfl
@[simp] theorem markCompleted_KB (s : State) : (markCompleted s).KB = s.KB := rfl
@[simp] theorem markCompleted_IS (s : State) : (markCompleted s).IS = s.IS := rfl
@[simp] theorem markCompleted_dataLen (s : State) : (markCompleted s).dataLen = s.dataLen := rfl
@[simp] theorem markCompleted_keyLen (s : State) : (markCompleted s).keyLen = s.keyLen := rfl
@[simp] theorem markCompleted_outLen (s : State) : (markCompleted s).outLen = s.outLen := rfl
@[simp] theorem markCompleted_offset (s : State) : (markCompleted s).offset = s.offset := rfl
@[simp] theorem markCompleted_latch (s : State) : (markCompleted s).latch = s.latch := rfl
@[simp] theorem markCompleted_seq (s : State) : (markCompleted s).seq = Seq.rest := rfl
@[simp] theorem markCompleted_busy (s : State) : (markCompleted s).busy = false := rfl
@[simp] theorem markCompleted_done (s : State) : (markCompleted s).done = true := rfl
@[simp] theorem markCompleted_fault (s : State) : (markCompleted s).fault = s.fault := rfl
@[simp] theorem markCompleted_cause (s : State) : (markCompleted s).cause = s.cause := rfl
@[simp] theorem markCompleted_data (s : State) : (markCompleted s).data = s.data := rfl
@[simp] theorem markCompleted_key (s : State) : (markCompleted s).key = s.key := rfl
@[simp] theorem markCompleted_out (s : State) : (markCompleted s).out = s.out := rfl
@[simp] theorem markCompleted_platform (s : State) : (markCompleted s).platform = s.platform := rfl
@[simp] theorem markCompleted_host (s : State) : (markCompleted s).host = s.host := rfl
@[simp] theorem markCompleted_regRead (s : State) : (markCompleted s).regRead = s.regRead := rfl
@[simp] theorem markCompleted_byteRead (s : State) : (markCompleted s).byteRead = s.byteRead := rfl
@[simp] theorem markCompleted_raced (s : State) : (markCompleted s).raced = s.raced := rfl
@[simp] theorem markCompleted_draws (s : State) : (markCompleted s).draws = s.draws := rfl

/-! ## `markFaulted` -/

@[simp] theorem markFaulted_H (c : Cause) (s : State) : (markFaulted c s).H = s.H := rfl
@[simp] theorem markFaulted_W (c : Cause) (s : State) : (markFaulted c s).W = s.W := rfl
@[simp] theorem markFaulted_V (c : Cause) (s : State) : (markFaulted c s).V = s.V := rfl
@[simp] theorem markFaulted_KB (c : Cause) (s : State) : (markFaulted c s).KB = s.KB := rfl
@[simp] theorem markFaulted_IS (c : Cause) (s : State) : (markFaulted c s).IS = s.IS := rfl
@[simp] theorem markFaulted_dataLen (c : Cause) (s : State) : (markFaulted c s).dataLen = s.dataLen := rfl
@[simp] theorem markFaulted_keyLen (c : Cause) (s : State) : (markFaulted c s).keyLen = s.keyLen := rfl
@[simp] theorem markFaulted_outLen (c : Cause) (s : State) : (markFaulted c s).outLen = s.outLen := rfl
@[simp] theorem markFaulted_offset (c : Cause) (s : State) : (markFaulted c s).offset = s.offset := rfl
@[simp] theorem markFaulted_latch (c : Cause) (s : State) : (markFaulted c s).latch = s.latch := rfl
@[simp] theorem markFaulted_seq (c : Cause) (s : State) : (markFaulted c s).seq = Seq.rest := rfl
@[simp] theorem markFaulted_busy (c : Cause) (s : State) : (markFaulted c s).busy = false := rfl
@[simp] theorem markFaulted_done (c : Cause) (s : State) : (markFaulted c s).done = false := rfl
@[simp] theorem markFaulted_fault (c : Cause) (s : State) : (markFaulted c s).fault = true := rfl
@[simp] theorem markFaulted_cause (c : Cause) (s : State) : (markFaulted c s).cause = causeCode c := rfl
@[simp] theorem markFaulted_data (c : Cause) (s : State) : (markFaulted c s).data = s.data := rfl
@[simp] theorem markFaulted_key (c : Cause) (s : State) : (markFaulted c s).key = s.key := rfl
@[simp] theorem markFaulted_out (c : Cause) (s : State) : (markFaulted c s).out = s.out := rfl
@[simp] theorem markFaulted_platform (c : Cause) (s : State) : (markFaulted c s).platform = s.platform := rfl
@[simp] theorem markFaulted_host (c : Cause) (s : State) : (markFaulted c s).host = s.host := rfl
@[simp] theorem markFaulted_regRead (c : Cause) (s : State) : (markFaulted c s).regRead = s.regRead := rfl
@[simp] theorem markFaulted_byteRead (c : Cause) (s : State) : (markFaulted c s).byteRead = s.byteRead := rfl
@[simp] theorem markFaulted_raced (c : Cause) (s : State) : (markFaulted c s).raced = s.raced := rfl
@[simp] theorem markFaulted_draws (c : Cause) (s : State) : (markFaulted c s).draws = s.draws := rfl

/-! ## `storeOut` -/

@[simp] theorem storeOut_H (bs : List Byte) (s : State) : (storeOut bs s).H = s.H := rfl
@[simp] theorem storeOut_W (bs : List Byte) (s : State) : (storeOut bs s).W = s.W := rfl
@[simp] theorem storeOut_V (bs : List Byte) (s : State) : (storeOut bs s).V = s.V := rfl
@[simp] theorem storeOut_KB (bs : List Byte) (s : State) : (storeOut bs s).KB = s.KB := rfl
@[simp] theorem storeOut_IS (bs : List Byte) (s : State) : (storeOut bs s).IS = s.IS := rfl
@[simp] theorem storeOut_dataLen (bs : List Byte) (s : State) : (storeOut bs s).dataLen = s.dataLen := rfl
@[simp] theorem storeOut_keyLen (bs : List Byte) (s : State) : (storeOut bs s).keyLen = s.keyLen := rfl
@[simp] theorem storeOut_outLen (bs : List Byte) (s : State) : (storeOut bs s).outLen = s.outLen := rfl
@[simp] theorem storeOut_offset (bs : List Byte) (s : State) : (storeOut bs s).offset = s.offset := rfl
@[simp] theorem storeOut_latch (bs : List Byte) (s : State) : (storeOut bs s).latch = s.latch := rfl
@[simp] theorem storeOut_seq (bs : List Byte) (s : State) : (storeOut bs s).seq = s.seq := rfl
@[simp] theorem storeOut_busy (bs : List Byte) (s : State) : (storeOut bs s).busy = s.busy := rfl
@[simp] theorem storeOut_done (bs : List Byte) (s : State) : (storeOut bs s).done = s.done := rfl
@[simp] theorem storeOut_fault (bs : List Byte) (s : State) : (storeOut bs s).fault = s.fault := rfl
@[simp] theorem storeOut_cause (bs : List Byte) (s : State) : (storeOut bs s).cause = s.cause := rfl
@[simp] theorem storeOut_data (bs : List Byte) (s : State) : (storeOut bs s).data = s.data := rfl
@[simp] theorem storeOut_key (bs : List Byte) (s : State) : (storeOut bs s).key = s.key := rfl
@[simp] theorem storeOut_out (bs : List Byte) (s : State) : (storeOut bs s).out = s.out.writeBytes 0 bs := rfl
@[simp] theorem storeOut_platform (bs : List Byte) (s : State) : (storeOut bs s).platform = s.platform := rfl
@[simp] theorem storeOut_host (bs : List Byte) (s : State) : (storeOut bs s).host = s.host := rfl
@[simp] theorem storeOut_regRead (bs : List Byte) (s : State) : (storeOut bs s).regRead = s.regRead := rfl
@[simp] theorem storeOut_byteRead (bs : List Byte) (s : State) : (storeOut bs s).byteRead = s.byteRead := rfl
@[simp] theorem storeOut_raced (bs : List Byte) (s : State) : (storeOut bs s).raced = s.raced := rfl
@[simp] theorem storeOut_draws (bs : List Byte) (s : State) : (storeOut bs s).draws = s.draws := rfl

/-! ## `finish` -/

@[simp] theorem finish_H (i : Instr) (s : State) : (finish i s).H = s.H := rfl
@[simp] theorem finish_W (i : Instr) (s : State) : (finish i s).W = if runsPadder i then freeSchedule s.draws else s.W := rfl
@[simp] theorem finish_V (i : Instr) (s : State) : (finish i s).V = if usesEngine i then freeWorking s.draws else s.V := rfl
@[simp] theorem finish_KB (i : Instr) (s : State) : (finish i s).KB = s.KB := rfl
@[simp] theorem finish_IS (i : Instr) (s : State) : (finish i s).IS = s.IS := rfl
@[simp] theorem finish_dataLen (i : Instr) (s : State) : (finish i s).dataLen = s.dataLen := rfl
@[simp] theorem finish_keyLen (i : Instr) (s : State) : (finish i s).keyLen = s.keyLen := rfl
@[simp] theorem finish_outLen (i : Instr) (s : State) : (finish i s).outLen = s.outLen := rfl
@[simp] theorem finish_offset (i : Instr) (s : State) : (finish i s).offset = s.offset := rfl
@[simp] theorem finish_latch (i : Instr) (s : State) : (finish i s).latch = if latchesOperands i then freeLatches s.draws else s.latch := rfl
@[simp] theorem finish_seq (i : Instr) (s : State) : (finish i s).seq = Seq.rest := rfl
@[simp] theorem finish_busy (i : Instr) (s : State) : (finish i s).busy = false := rfl
@[simp] theorem finish_done (i : Instr) (s : State) : (finish i s).done = true := rfl
@[simp] theorem finish_fault (i : Instr) (s : State) : (finish i s).fault = s.fault := rfl
@[simp] theorem finish_cause (i : Instr) (s : State) : (finish i s).cause = s.cause := rfl
@[simp] theorem finish_data (i : Instr) (s : State) : (finish i s).data = s.data := rfl
@[simp] theorem finish_key (i : Instr) (s : State) : (finish i s).key = s.key := rfl
@[simp] theorem finish_out (i : Instr) (s : State) : (finish i s).out = s.out := rfl
@[simp] theorem finish_platform (i : Instr) (s : State) : (finish i s).platform = s.platform := rfl
@[simp] theorem finish_host (i : Instr) (s : State) : (finish i s).host = s.host := rfl
@[simp] theorem finish_regRead (i : Instr) (s : State) : (finish i s).regRead = s.regRead := rfl
@[simp] theorem finish_byteRead (i : Instr) (s : State) : (finish i s).byteRead = s.byteRead := rfl
@[simp] theorem finish_raced (i : Instr) (s : State) : (finish i s).raced = [] := rfl
@[simp] theorem finish_draws (i : Instr) (s : State) : (finish i s).draws = s.draws + 1 := rfl

/-! ## `abandon` -/

@[simp] theorem abandon_H (s : State) : (abandon s).H = freeHash s.draws := rfl
@[simp] theorem abandon_W (s : State) : (abandon s).W = freeSchedule s.draws := rfl
@[simp] theorem abandon_V (s : State) : (abandon s).V = freeWorking s.draws := rfl
@[simp] theorem abandon_KB (s : State) : (abandon s).KB = freeKeyBlock s.draws := rfl
@[simp] theorem abandon_IS (s : State) : (abandon s).IS = freeInner s.draws := rfl
@[simp] theorem abandon_dataLen (s : State) : (abandon s).dataLen = s.dataLen := rfl
@[simp] theorem abandon_keyLen (s : State) : (abandon s).keyLen = s.keyLen := rfl
@[simp] theorem abandon_outLen (s : State) : (abandon s).outLen = s.outLen := rfl
@[simp] theorem abandon_offset (s : State) : (abandon s).offset = s.offset := rfl
@[simp] theorem abandon_latch (s : State) : (abandon s).latch = freeLatches s.draws := rfl
@[simp] theorem abandon_seq (s : State) : (abandon s).seq = s.seq := rfl
@[simp] theorem abandon_busy (s : State) : (abandon s).busy = s.busy := rfl
@[simp] theorem abandon_done (s : State) : (abandon s).done = s.done := rfl
@[simp] theorem abandon_fault (s : State) : (abandon s).fault = s.fault := rfl
@[simp] theorem abandon_cause (s : State) : (abandon s).cause = s.cause := rfl
@[simp] theorem abandon_data (s : State) : (abandon s).data = s.data := rfl
@[simp] theorem abandon_key (s : State) : (abandon s).key = s.key := rfl
@[simp] theorem abandon_out (s : State) : (abandon s).out = s.out.writeBytes 0 (freeOut s.draws (outInFlight s)) := rfl
@[simp] theorem abandon_platform (s : State) : (abandon s).platform = s.platform := rfl
@[simp] theorem abandon_host (s : State) : (abandon s).host = s.host := rfl
@[simp] theorem abandon_regRead (s : State) : (abandon s).regRead = s.regRead := rfl
@[simp] theorem abandon_byteRead (s : State) : (abandon s).byteRead = s.byteRead := rfl
@[simp] theorem abandon_raced (s : State) : (abandon s).raced = [] := rfl
@[simp] theorem abandon_draws (s : State) : (abandon s).draws = s.draws + 1 := rfl

/-! ## `applyReset` -/

@[simp] theorem applyReset_H (s : State) : (applyReset s).H = freeHash s.draws := rfl
@[simp] theorem applyReset_W (s : State) : (applyReset s).W = freeSchedule s.draws := rfl
@[simp] theorem applyReset_V (s : State) : (applyReset s).V = freeWorking s.draws := rfl
@[simp] theorem applyReset_KB (s : State) : (applyReset s).KB = freeKeyBlock s.draws := rfl
@[simp] theorem applyReset_IS (s : State) : (applyReset s).IS = freeInner s.draws := rfl
@[simp] theorem applyReset_dataLen (s : State) : (applyReset s).dataLen = 0 := rfl
@[simp] theorem applyReset_keyLen (s : State) : (applyReset s).keyLen = 0 := rfl
@[simp] theorem applyReset_outLen (s : State) : (applyReset s).outLen = 0 := rfl
@[simp] theorem applyReset_offset (s : State) : (applyReset s).offset = 0 := rfl
@[simp] theorem applyReset_latch (s : State) : (applyReset s).latch = freeLatches s.draws := rfl
@[simp] theorem applyReset_seq (s : State) : (applyReset s).seq = Seq.rest := rfl
@[simp] theorem applyReset_busy (s : State) : (applyReset s).busy = false := rfl
@[simp] theorem applyReset_done (s : State) : (applyReset s).done = false := rfl
@[simp] theorem applyReset_fault (s : State) : (applyReset s).fault = false := rfl
@[simp] theorem applyReset_cause (s : State) : (applyReset s).cause = 0 := rfl
@[simp] theorem applyReset_data (s : State) : (applyReset s).data = s.data := rfl
@[simp] theorem applyReset_key (s : State) : (applyReset s).key = s.key := rfl
@[simp] theorem applyReset_out (s : State) : (applyReset s).out = s.out.writeBytes 0 (freeOut s.draws (outInFlight s)) := rfl
@[simp] theorem applyReset_platform (s : State) : (applyReset s).platform = s.platform := rfl
@[simp] theorem applyReset_host (s : State) : (applyReset s).host = s.host := rfl
@[simp] theorem applyReset_regRead (s : State) : (applyReset s).regRead = s.regRead := rfl
@[simp] theorem applyReset_byteRead (s : State) : (applyReset s).byteRead = s.byteRead := rfl
@[simp] theorem applyReset_raced (s : State) : (applyReset s).raced = [] := rfl
@[simp] theorem applyReset_draws (s : State) : (applyReset s).draws = s.draws + 1 := rfl

/-! ## `goto` -/

@[simp] theorem goto_H (ph : Phase) (st : EngineStep) (t : Nat) (s : State) : (goto ph st t s).H = s.H := rfl
@[simp] theorem goto_W (ph : Phase) (st : EngineStep) (t : Nat) (s : State) : (goto ph st t s).W = s.W := rfl
@[simp] theorem goto_V (ph : Phase) (st : EngineStep) (t : Nat) (s : State) : (goto ph st t s).V = s.V := rfl
@[simp] theorem goto_KB (ph : Phase) (st : EngineStep) (t : Nat) (s : State) : (goto ph st t s).KB = s.KB := rfl
@[simp] theorem goto_IS (ph : Phase) (st : EngineStep) (t : Nat) (s : State) : (goto ph st t s).IS = s.IS := rfl
@[simp] theorem goto_dataLen (ph : Phase) (st : EngineStep) (t : Nat) (s : State) : (goto ph st t s).dataLen = s.dataLen := rfl
@[simp] theorem goto_keyLen (ph : Phase) (st : EngineStep) (t : Nat) (s : State) : (goto ph st t s).keyLen = s.keyLen := rfl
@[simp] theorem goto_outLen (ph : Phase) (st : EngineStep) (t : Nat) (s : State) : (goto ph st t s).outLen = s.outLen := rfl
@[simp] theorem goto_offset (ph : Phase) (st : EngineStep) (t : Nat) (s : State) : (goto ph st t s).offset = s.offset := rfl
@[simp] theorem goto_latch (ph : Phase) (st : EngineStep) (t : Nat) (s : State) : (goto ph st t s).latch = s.latch := rfl
@[simp] theorem goto_seq (ph : Phase) (st : EngineStep) (t : Nat) (s : State) : (goto ph st t s).seq = ⟨s.seq.op, ph, st, t⟩ := rfl
@[simp] theorem goto_busy (ph : Phase) (st : EngineStep) (t : Nat) (s : State) : (goto ph st t s).busy = s.busy := rfl
@[simp] theorem goto_done (ph : Phase) (st : EngineStep) (t : Nat) (s : State) : (goto ph st t s).done = s.done := rfl
@[simp] theorem goto_fault (ph : Phase) (st : EngineStep) (t : Nat) (s : State) : (goto ph st t s).fault = s.fault := rfl
@[simp] theorem goto_cause (ph : Phase) (st : EngineStep) (t : Nat) (s : State) : (goto ph st t s).cause = s.cause := rfl
@[simp] theorem goto_data (ph : Phase) (st : EngineStep) (t : Nat) (s : State) : (goto ph st t s).data = s.data := rfl
@[simp] theorem goto_key (ph : Phase) (st : EngineStep) (t : Nat) (s : State) : (goto ph st t s).key = s.key := rfl
@[simp] theorem goto_out (ph : Phase) (st : EngineStep) (t : Nat) (s : State) : (goto ph st t s).out = s.out := rfl
@[simp] theorem goto_platform (ph : Phase) (st : EngineStep) (t : Nat) (s : State) : (goto ph st t s).platform = s.platform := rfl
@[simp] theorem goto_host (ph : Phase) (st : EngineStep) (t : Nat) (s : State) : (goto ph st t s).host = s.host := rfl
@[simp] theorem goto_regRead (ph : Phase) (st : EngineStep) (t : Nat) (s : State) : (goto ph st t s).regRead = s.regRead := rfl
@[simp] theorem goto_byteRead (ph : Phase) (st : EngineStep) (t : Nat) (s : State) : (goto ph st t s).byteRead = s.byteRead := rfl
@[simp] theorem goto_raced (ph : Phase) (st : EngineStep) (t : Nat) (s : State) : (goto ph st t s).raced = s.raced := rfl
@[simp] theorem goto_draws (ph : Phase) (st : EngineStep) (t : Nat) (s : State) : (goto ph st t s).draws = s.draws := rfl

/-! ## `readRegister` -/

@[simp] theorem readRegister_H (n : BitVec 7) (s : State) : (readRegister n s).H = s.H := rfl
@[simp] theorem readRegister_W (n : BitVec 7) (s : State) : (readRegister n s).W = s.W := rfl
@[simp] theorem readRegister_V (n : BitVec 7) (s : State) : (readRegister n s).V = s.V := rfl
@[simp] theorem readRegister_KB (n : BitVec 7) (s : State) : (readRegister n s).KB = s.KB := rfl
@[simp] theorem readRegister_IS (n : BitVec 7) (s : State) : (readRegister n s).IS = s.IS := rfl
@[simp] theorem readRegister_dataLen (n : BitVec 7) (s : State) : (readRegister n s).dataLen = s.dataLen := rfl
@[simp] theorem readRegister_keyLen (n : BitVec 7) (s : State) : (readRegister n s).keyLen = s.keyLen := rfl
@[simp] theorem readRegister_outLen (n : BitVec 7) (s : State) : (readRegister n s).outLen = s.outLen := rfl
@[simp] theorem readRegister_offset (n : BitVec 7) (s : State) : (readRegister n s).offset = s.offset := rfl
@[simp] theorem readRegister_latch (n : BitVec 7) (s : State) : (readRegister n s).latch = s.latch := rfl
@[simp] theorem readRegister_seq (n : BitVec 7) (s : State) : (readRegister n s).seq = s.seq := rfl
@[simp] theorem readRegister_busy (n : BitVec 7) (s : State) : (readRegister n s).busy = s.busy := rfl
@[simp] theorem readRegister_done (n : BitVec 7) (s : State) : (readRegister n s).done = s.done := rfl
@[simp] theorem readRegister_fault (n : BitVec 7) (s : State) : (readRegister n s).fault = s.fault := rfl
@[simp] theorem readRegister_cause (n : BitVec 7) (s : State) : (readRegister n s).cause = s.cause := rfl
@[simp] theorem readRegister_data (n : BitVec 7) (s : State) : (readRegister n s).data = s.data := rfl
@[simp] theorem readRegister_key (n : BitVec 7) (s : State) : (readRegister n s).key = s.key := rfl
@[simp] theorem readRegister_out (n : BitVec 7) (s : State) : (readRegister n s).out = s.out := rfl
@[simp] theorem readRegister_platform (n : BitVec 7) (s : State) : (readRegister n s).platform = s.platform := rfl
@[simp] theorem readRegister_host (n : BitVec 7) (s : State) : (readRegister n s).host = s.host := rfl
@[simp] theorem readRegister_regRead (n : BitVec 7) (s : State) : (readRegister n s).regRead = readValue n s := rfl
@[simp] theorem readRegister_byteRead (n : BitVec 7) (s : State) : (readRegister n s).byteRead = s.byteRead := rfl
@[simp] theorem readRegister_raced (n : BitVec 7) (s : State) : (readRegister n s).raced = s.raced := rfl
@[simp] theorem readRegister_draws (n : BitVec 7) (s : State) : (readRegister n s).draws = s.draws + 1 := rfl

/-! ## `storeDigest` -/

@[simp] theorem storeDigest_H (s : State) : (storeDigest s).H = s.H := rfl
@[simp] theorem storeDigest_W (s : State) : (storeDigest s).W = s.W := rfl
@[simp] theorem storeDigest_V (s : State) : (storeDigest s).V = s.V := rfl
@[simp] theorem storeDigest_KB (s : State) : (storeDigest s).KB = s.KB := rfl
@[simp] theorem storeDigest_IS (s : State) : (storeDigest s).IS = s.IS := rfl
@[simp] theorem storeDigest_dataLen (s : State) : (storeDigest s).dataLen = s.dataLen := rfl
@[simp] theorem storeDigest_keyLen (s : State) : (storeDigest s).keyLen = s.keyLen := rfl
@[simp] theorem storeDigest_outLen (s : State) : (storeDigest s).outLen = s.outLen := rfl
@[simp] theorem storeDigest_offset (s : State) : (storeDigest s).offset = s.offset := rfl
@[simp] theorem storeDigest_latch (s : State) : (storeDigest s).latch = s.latch := rfl
@[simp] theorem storeDigest_seq (s : State) : (storeDigest s).seq = s.seq := rfl
@[simp] theorem storeDigest_busy (s : State) : (storeDigest s).busy = s.busy := rfl
@[simp] theorem storeDigest_done (s : State) : (storeDigest s).done = s.done := rfl
@[simp] theorem storeDigest_fault (s : State) : (storeDigest s).fault = s.fault := rfl
@[simp] theorem storeDigest_cause (s : State) : (storeDigest s).cause = s.cause := rfl
@[simp] theorem storeDigest_data (s : State) : (storeDigest s).data = s.data := rfl
@[simp] theorem storeDigest_key (s : State) : (storeDigest s).key = s.key := rfl
@[simp] theorem storeDigest_out (s : State) : (storeDigest s).out = s.out.writeBytes 0 (digestPrefix s.H s.latch.OLEN.toNat) := rfl
@[simp] theorem storeDigest_platform (s : State) : (storeDigest s).platform = s.platform := rfl
@[simp] theorem storeDigest_host (s : State) : (storeDigest s).host = s.host := rfl
@[simp] theorem storeDigest_regRead (s : State) : (storeDigest s).regRead = s.regRead := rfl
@[simp] theorem storeDigest_byteRead (s : State) : (storeDigest s).byteRead = s.byteRead := rfl
@[simp] theorem storeDigest_raced (s : State) : (storeDigest s).raced = s.raced := rfl
@[simp] theorem storeDigest_draws (s : State) : (storeDigest s).draws = s.draws := rfl

/-! ## `setOperand` -/

@[simp] theorem setOperand_H (o : Operand) (v : Size) (s : State) : (setOperand o v s).H = s.H := by cases o <;> rfl
@[simp] theorem setOperand_W (o : Operand) (v : Size) (s : State) : (setOperand o v s).W = s.W := by cases o <;> rfl
@[simp] theorem setOperand_V (o : Operand) (v : Size) (s : State) : (setOperand o v s).V = s.V := by cases o <;> rfl
@[simp] theorem setOperand_KB (o : Operand) (v : Size) (s : State) : (setOperand o v s).KB = s.KB := by cases o <;> rfl
@[simp] theorem setOperand_IS (o : Operand) (v : Size) (s : State) : (setOperand o v s).IS = s.IS := by cases o <;> rfl
@[simp] theorem setOperand_latch (o : Operand) (v : Size) (s : State) : (setOperand o v s).latch = s.latch := by cases o <;> rfl
@[simp] theorem setOperand_seq (o : Operand) (v : Size) (s : State) : (setOperand o v s).seq = s.seq := by cases o <;> rfl
@[simp] theorem setOperand_busy (o : Operand) (v : Size) (s : State) : (setOperand o v s).busy = s.busy := by cases o <;> rfl
@[simp] theorem setOperand_done (o : Operand) (v : Size) (s : State) : (setOperand o v s).done = s.done := by cases o <;> rfl
@[simp] theorem setOperand_fault (o : Operand) (v : Size) (s : State) : (setOperand o v s).fault = s.fault := by cases o <;> rfl
@[simp] theorem setOperand_cause (o : Operand) (v : Size) (s : State) : (setOperand o v s).cause = s.cause := by cases o <;> rfl
@[simp] theorem setOperand_data (o : Operand) (v : Size) (s : State) : (setOperand o v s).data = s.data := by cases o <;> rfl
@[simp] theorem setOperand_key (o : Operand) (v : Size) (s : State) : (setOperand o v s).key = s.key := by cases o <;> rfl
@[simp] theorem setOperand_out (o : Operand) (v : Size) (s : State) : (setOperand o v s).out = s.out := by cases o <;> rfl
@[simp] theorem setOperand_platform (o : Operand) (v : Size) (s : State) : (setOperand o v s).platform = s.platform := by cases o <;> rfl
@[simp] theorem setOperand_host (o : Operand) (v : Size) (s : State) : (setOperand o v s).host = s.host := by cases o <;> rfl
@[simp] theorem setOperand_regRead (o : Operand) (v : Size) (s : State) : (setOperand o v s).regRead = s.regRead := by cases o <;> rfl
@[simp] theorem setOperand_byteRead (o : Operand) (v : Size) (s : State) : (setOperand o v s).byteRead = s.byteRead := by cases o <;> rfl
@[simp] theorem setOperand_raced (o : Operand) (v : Size) (s : State) : (setOperand o v s).raced = s.raced := by cases o <;> rfl
@[simp] theorem setOperand_draws (o : Operand) (v : Size) (s : State) : (setOperand o v s).draws = s.draws := by cases o <;> rfl

/-! ## `writeByte` -/

@[simp] theorem writeByte_H (sp : Space) (a : Nat) (b : Byte) (s : State) : (writeByte sp a b s).H = s.H := by cases sp <;> rfl
@[simp] theorem writeByte_W (sp : Space) (a : Nat) (b : Byte) (s : State) : (writeByte sp a b s).W = s.W := by cases sp <;> rfl
@[simp] theorem writeByte_V (sp : Space) (a : Nat) (b : Byte) (s : State) : (writeByte sp a b s).V = s.V := by cases sp <;> rfl
@[simp] theorem writeByte_KB (sp : Space) (a : Nat) (b : Byte) (s : State) : (writeByte sp a b s).KB = s.KB := by cases sp <;> rfl
@[simp] theorem writeByte_IS (sp : Space) (a : Nat) (b : Byte) (s : State) : (writeByte sp a b s).IS = s.IS := by cases sp <;> rfl
@[simp] theorem writeByte_dataLen (sp : Space) (a : Nat) (b : Byte) (s : State) : (writeByte sp a b s).dataLen = s.dataLen := by cases sp <;> rfl
@[simp] theorem writeByte_keyLen (sp : Space) (a : Nat) (b : Byte) (s : State) : (writeByte sp a b s).keyLen = s.keyLen := by cases sp <;> rfl
@[simp] theorem writeByte_outLen (sp : Space) (a : Nat) (b : Byte) (s : State) : (writeByte sp a b s).outLen = s.outLen := by cases sp <;> rfl
@[simp] theorem writeByte_offset (sp : Space) (a : Nat) (b : Byte) (s : State) : (writeByte sp a b s).offset = s.offset := by cases sp <;> rfl
@[simp] theorem writeByte_latch (sp : Space) (a : Nat) (b : Byte) (s : State) : (writeByte sp a b s).latch = s.latch := by cases sp <;> rfl
@[simp] theorem writeByte_seq (sp : Space) (a : Nat) (b : Byte) (s : State) : (writeByte sp a b s).seq = s.seq := by cases sp <;> rfl
@[simp] theorem writeByte_busy (sp : Space) (a : Nat) (b : Byte) (s : State) : (writeByte sp a b s).busy = s.busy := by cases sp <;> rfl
@[simp] theorem writeByte_done (sp : Space) (a : Nat) (b : Byte) (s : State) : (writeByte sp a b s).done = s.done := by cases sp <;> rfl
@[simp] theorem writeByte_fault (sp : Space) (a : Nat) (b : Byte) (s : State) : (writeByte sp a b s).fault = s.fault := by cases sp <;> rfl
@[simp] theorem writeByte_cause (sp : Space) (a : Nat) (b : Byte) (s : State) : (writeByte sp a b s).cause = s.cause := by cases sp <;> rfl
@[simp] theorem writeByte_platform (sp : Space) (a : Nat) (b : Byte) (s : State) : (writeByte sp a b s).platform = s.platform := by cases sp <;> rfl
@[simp] theorem writeByte_host (sp : Space) (a : Nat) (b : Byte) (s : State) : (writeByte sp a b s).host = s.host := by cases sp <;> rfl
@[simp] theorem writeByte_regRead (sp : Space) (a : Nat) (b : Byte) (s : State) : (writeByte sp a b s).regRead = s.regRead := by cases sp <;> rfl
@[simp] theorem writeByte_byteRead (sp : Space) (a : Nat) (b : Byte) (s : State) : (writeByte sp a b s).byteRead = s.byteRead := by cases sp <;> rfl
@[simp] theorem writeByte_raced (sp : Space) (a : Nat) (b : Byte) (s : State) : (writeByte sp a b s).raced = s.raced := by cases sp <;> rfl
@[simp] theorem writeByte_draws (sp : Space) (a : Nat) (b : Byte) (s : State) : (writeByte sp a b s).draws = s.draws := by cases sp <;> rfl

/-! ## `accept` -/

@[simp] theorem accept_H (i : Instr) (s : State) : (accept i s).H = s.H := by
  cases i <;> simp only [accept, enterFirst] <;> (try split) <;> rfl
@[simp] theorem accept_W (i : Instr) (s : State) : (accept i s).W = s.W := by
  cases i <;> simp only [accept, enterFirst] <;> (try split) <;> rfl
@[simp] theorem accept_V (i : Instr) (s : State) : (accept i s).V = s.V := by
  cases i <;> simp only [accept, enterFirst] <;> (try split) <;> rfl
@[simp] theorem accept_KB (i : Instr) (s : State) : (accept i s).KB = s.KB := by
  cases i <;> simp only [accept, enterFirst] <;> (try split) <;> rfl
@[simp] theorem accept_IS (i : Instr) (s : State) : (accept i s).IS = s.IS := by
  cases i <;> simp only [accept, enterFirst] <;> (try split) <;> rfl
@[simp] theorem accept_dataLen (i : Instr) (s : State) : (accept i s).dataLen = s.dataLen := by
  cases i <;> simp only [accept, enterFirst] <;> (try split) <;> rfl
@[simp] theorem accept_keyLen (i : Instr) (s : State) : (accept i s).keyLen = s.keyLen := by
  cases i <;> simp only [accept, enterFirst] <;> (try split) <;> rfl
@[simp] theorem accept_outLen (i : Instr) (s : State) : (accept i s).outLen = s.outLen := by
  cases i <;> simp only [accept, enterFirst] <;> (try split) <;> rfl
@[simp] theorem accept_offset (i : Instr) (s : State) : (accept i s).offset = s.offset := by
  cases i <;> simp only [accept, enterFirst] <;> (try split) <;> rfl
@[simp] theorem accept_busy (i : Instr) (s : State) : (accept i s).busy = true := by
  cases i <;> simp only [accept, enterFirst] <;> (try split) <;> rfl
@[simp] theorem accept_done (i : Instr) (s : State) : (accept i s).done = false := by
  cases i <;> simp only [accept, enterFirst] <;> (try split) <;> rfl
@[simp] theorem accept_fault (i : Instr) (s : State) : (accept i s).fault = s.fault := by
  cases i <;> simp only [accept, enterFirst] <;> (try split) <;> rfl
@[simp] theorem accept_cause (i : Instr) (s : State) : (accept i s).cause = s.cause := by
  cases i <;> simp only [accept, enterFirst] <;> (try split) <;> rfl
@[simp] theorem accept_data (i : Instr) (s : State) : (accept i s).data = s.data := by
  cases i <;> simp only [accept, enterFirst] <;> (try split) <;> rfl
@[simp] theorem accept_key (i : Instr) (s : State) : (accept i s).key = s.key := by
  cases i <;> simp only [accept, enterFirst] <;> (try split) <;> rfl
@[simp] theorem accept_out (i : Instr) (s : State) : (accept i s).out = s.out := by
  cases i <;> simp only [accept, enterFirst] <;> (try split) <;> rfl
@[simp] theorem accept_platform (i : Instr) (s : State) : (accept i s).platform = s.platform := by
  cases i <;> simp only [accept, enterFirst] <;> (try split) <;> rfl
@[simp] theorem accept_host (i : Instr) (s : State) : (accept i s).host = s.host := by
  cases i <;> simp only [accept, enterFirst] <;> (try split) <;> rfl
@[simp] theorem accept_regRead (i : Instr) (s : State) : (accept i s).regRead = s.regRead := by
  cases i <;> simp only [accept, enterFirst] <;> (try split) <;> rfl
@[simp] theorem accept_byteRead (i : Instr) (s : State) : (accept i s).byteRead = s.byteRead := by
  cases i <;> simp only [accept, enterFirst] <;> (try split) <;> rfl
@[simp] theorem accept_raced (i : Instr) (s : State) : (accept i s).raced = [] := by
  cases i <;> simp only [accept, enterFirst] <;> (try split) <;> rfl
@[simp] theorem accept_draws (i : Instr) (s : State) : (accept i s).draws = s.draws := by
  cases i <;> simp only [accept, enterFirst] <;> (try split) <;> rfl

/-! ## `raise` -/

@[simp] theorem raise_dataLen (c : Cause) (s : State) : (raise c s).dataLen = s.dataLen := by
  unfold raise; split <;> rfl
@[simp] theorem raise_keyLen (c : Cause) (s : State) : (raise c s).keyLen = s.keyLen := by
  unfold raise; split <;> rfl
@[simp] theorem raise_outLen (c : Cause) (s : State) : (raise c s).outLen = s.outLen := by
  unfold raise; split <;> rfl
@[simp] theorem raise_offset (c : Cause) (s : State) : (raise c s).offset = s.offset := by
  unfold raise; split <;> rfl
@[simp] theorem raise_seq (c : Cause) (s : State) : (raise c s).seq = Seq.rest := by
  unfold raise; split <;> rfl
@[simp] theorem raise_busy (c : Cause) (s : State) : (raise c s).busy = false := by
  unfold raise; split <;> rfl
@[simp] theorem raise_done (c : Cause) (s : State) : (raise c s).done = false := by
  unfold raise; split <;> rfl
@[simp] theorem raise_fault (c : Cause) (s : State) : (raise c s).fault = true := by
  unfold raise; split <;> rfl
@[simp] theorem raise_cause (c : Cause) (s : State) : (raise c s).cause = causeCode c := by
  unfold raise; split <;> rfl
@[simp] theorem raise_data (c : Cause) (s : State) : (raise c s).data = s.data := by
  unfold raise; split <;> rfl
@[simp] theorem raise_key (c : Cause) (s : State) : (raise c s).key = s.key := by
  unfold raise; split <;> rfl
@[simp] theorem raise_platform (c : Cause) (s : State) : (raise c s).platform = s.platform := by
  unfold raise; split <;> rfl
@[simp] theorem raise_host (c : Cause) (s : State) : (raise c s).host = s.host := by
  unfold raise; split <;> rfl
@[simp] theorem raise_regRead (c : Cause) (s : State) : (raise c s).regRead = s.regRead := by
  unfold raise; split <;> rfl
@[simp] theorem raise_byteRead (c : Cause) (s : State) : (raise c s).byteRead = s.byteRead := by
  unfold raise; split <;> rfl

end Sys2Proof.Machine
end

