-- ==== Sys2Proof/Laws/Issue.lean ====
section
/-! SUPPORT. What the issue sequence can answer, what acceptance leaves, and the commands' meanings as issue sequences. -/

namespace Sys2Proof.Machine

/-- Everything the issue sequence can do (R45, R126). -/
theorem issue_cases (i : Instr) (run : State → State) (s : State) :
    (s.fault = true ∧ issue i run s = .next s) ∨
    (s.fault = false ∧ s.busy = true ∧ issue i run s = .next (raise .accessWhileBusy s)) ∨
    (isIdle s = true ∧ lengthOk i (latchOperands i s) = false ∧ issue i run s = .next (raise .lengthRange s)) ∨
    (isIdle s = true ∧ lengthOk i (latchOperands i s) = true ∧
      rangeOk i s.platform (latchOperands i s) = false ∧ issue i run s = .next (raise .bufferRange s)) ∨
    (isIdle s = true ∧ lengthOk i (latchOperands i s) = true ∧
      rangeOk i s.platform (latchOperands i s) = true ∧ issue i run s = .next (run (accept i s))) := by
  unfold issue isIdle
  cases s.fault <;> cases s.busy <;> cases lengthOk i (latchOperands i s) <;>
    cases rangeOk i s.platform (latchOperands i s) <;> simp

/-- An idle block runs a command whose checks pass. -/
theorem issue_accepted (i : Instr) (run : State → State) (s : State) (hi : isIdle s = true)
    (hl : lengthOk i (latchOperands i s) = true) (hr : rangeOk i s.platform (latchOperands i s) = true) :
    issue i run s = .next (run (accept i s)) := by
  simp only [isIdle, Bool.and_eq_true, Bool.not_eq_true'] at hi
  simp [issue, hi.1, hi.2, hl, hr]

/-- What follows acceptance, by command. -/
def runCommand : Instr → State → State
  | .loadIv => runLoadIv
  | .compress => runCompress
  | .process => runProcess
  | .storeDigest => runStoreDigest
  | .hash => runHash
  | .hmac => runHmac

/-- A command's meaning is its issue sequence. -/
theorem exec_eq_issue (i : Instr) (s : State) : exec i s = issue i (runCommand i) s := by
  cases i <;> rfl

/-- After acceptance the engine reads the spaces as they stand: no byte has been raced with it yet. -/
@[simp] theorem engineByte_accept (i : Instr) (s : State) (sp : Space) :
    engineByte (accept i s) sp = (spaceBytes s sp).read := by
  funext a
  cases sp <;> simp [engineByte, racedByte, spaceBytes]

/-- A command's body changes no operand register, no byte of DATA or KEY and nothing of the host's side. -/
theorem runCommand_sameOutside (i : Instr) (s : State) : SameOutside s (runCommand i s) := by
  cases i <;> simp [runCommand, runLoadIv, runCompress, runProcess, runStoreDigest, runHash, runHmac, SameOutside]

/-- A command's body completes the command and enters no fault. -/
theorem runCommand_completes (i : Instr) (s : State) : CompletedFrom s (runCommand i s) := by
  cases i <;> simp [runCommand, runLoadIv, runCompress, runProcess, runStoreDigest, runHash, runHmac, CompletedFrom]

/-! The two checks and the latched operands, in terms of the operand registers. -/

theorem lengthOk_process (s : State) : lengthOk .process (latchOperands .process s) = true ↔
    s.dataLen.toNat + s.offset.toNat ≤ 2 ^ 61 - 1 := decide_eq_true_iff

theorem lengthOk_hash (s : State) : lengthOk .hash (latchOperands .hash s) = true ↔
    s.dataLen.toNat ≤ 2 ^ 61 - 1 := decide_eq_true_iff

theorem lengthOk_hmac (s : State) : lengthOk .hmac (latchOperands .hmac s) = true ↔
    s.dataLen.toNat + 64 ≤ 2 ^ 61 - 1 ∧ s.keyLen.toNat ≤ 2 ^ 61 - 1 :=
  (Bool.and_eq_true _ _ ▸ and_congr decide_eq_true_iff decide_eq_true_iff)

theorem rangeOk_process (s : State) : rangeOk .process s.platform (latchOperands .process s) = true ↔
    s.dataLen.toNat ≤ s.platform.dataCap := decide_eq_true_iff

theorem rangeOk_storeDigest (s : State) : rangeOk .storeDigest s.platform (latchOperands .storeDigest s) = true ↔
    s.outLen.toNat ≤ s.platform.outCap := decide_eq_true_iff

theorem rangeOk_hash (s : State) : rangeOk .hash s.platform (latchOperands .hash s) = true ↔
    s.dataLen.toNat ≤ s.platform.dataCap ∧ s.outLen.toNat ≤ s.platform.outCap :=
  (Bool.and_eq_true _ _ ▸ and_congr decide_eq_true_iff decide_eq_true_iff)

theorem rangeOk_hmac (s : State) : rangeOk .hmac s.platform (latchOperands .hmac s) = true ↔
    (s.dataLen.toNat ≤ s.platform.dataCap ∧ s.keyLen.toNat ≤ s.platform.keyCap) ∧
      s.outLen.toNat ≤ s.platform.outCap :=
  (Bool.and_eq_true _ _ ▸
    and_congr (Bool.and_eq_true _ _ ▸ and_congr decide_eq_true_iff decide_eq_true_iff) decide_eq_true_iff)

theorem accept_process_latch (s : State) :
    (accept .process s).latch.DLEN = s.dataLen ∧ (accept .process s).latch.O.toNat = s.offset.toNat := by
  refine ⟨rfl, ?_⟩
  change (BitVec.ofNat 64 s.offset.toNat).toNat = s.offset.toNat
  simp

theorem accept_storeDigest_latch (s : State) : (accept .storeDigest s).latch.OLEN = s.outLen := rfl

theorem accept_hash_latch (s : State) :
    (accept .hash s).latch.DLEN = s.dataLen ∧ (accept .hash s).latch.OLEN = s.outLen := ⟨rfl, rfl⟩

theorem accept_hmac_latch (s : State) :
    (accept .hmac s).latch.DLEN = s.dataLen ∧ (accept .hmac s).latch.KLEN = s.keyLen ∧
      (accept .hmac s).latch.OLEN = s.outLen := by
  simp only [accept, enterFirst]
  split <;> exact ⟨rfl, rfl, rfl⟩

/-- A block that has completed a command without a fault is idle. -/
theorem isIdle_finish (i : Instr) (s : State) : isIdle (finish i s) = !s.fault := by
  simp [isIdle]

/-- Storing a digest, as the frame predicate says it. -/
theorem storedDigest_writeBytes (S : Hash) (olen : Nat) (m : Memory) :
    StoredDigest S olen m (m.writeBytes 0 (digestPrefix S olen)) := by
  constructor
  · intro hw a ha
    have h := Memory.read_writeBytes_inside (digestPrefix S olen) m 0 a hw (by simpa using ha)
    simpa using h
  · intro a ha
    exact Memory.read_writeBytes_outside _ _ _ _ (Or.inr (by simpa using ha))

end Sys2Proof.Machine
end

