-- ==== Sys2Proof/Laws/Engine.lean ====
section
/-! SUPPORT. The engine's own steps, run together: a schedule expansion, the 64 rounds, one block; and that they take no
notice of the host's list. -/

namespace Sys2Proof.Machine

theorem engineTurns_add (m n : Nat) (s : State) : engineTurns (m + n) s = engineTurns n (engineTurns m s) := by
  induction m generalizing s with
  | zero => simp [engineTurns]
  | succ m ih => rw [show m + 1 + n = (m + n) + 1 by omega, engineTurns, engineTurns, ih]

/-- Without a command in flight the engine does nothing. -/
theorem engineTurns_idle (k : Nat) (s : State) (h : s.busy = false) : engineTurns k s = s := by
  induction k with
  | zero => rfl
  | succ k ih => rw [engineTurns, engineTurn, h]; simpa using ih

/-- If a command is still in flight after some turns, it was in flight all along. -/
theorem engineTurns_busy_before (j k : Nat) (s : State) (hjk : j ≤ k) (h : (engineTurns k s).busy = true) :
    (engineTurns j s).busy = true := by
  obtain ⟨n, rfl⟩ := Nat.exists_eq_add_of_le hjk
  rw [engineTurns_add] at h
  cases hb : (engineTurns j s).busy with
  | true => rfl
  | false => rw [engineTurns_idle n _ hb, hb] at h; exact absurd h (by simp)

/-- `EXPAND` from index `t` to its end. -/
theorem engineTurns_expand (n t : Nat) (s : State) (hb : s.busy = true) (hs : s.seq.step = .expand)
    (ht : s.seq.t = t) (hn : t + n + 1 = 64) :
    engineTurns (n + 1) s = goto s.seq.phase .init 0 { s with W := expandFrom (n + 1) t s.W } := by
  induction n generalizing t s with
  | zero =>
    obtain rfl : t = 63 := by omega
    simp [engineTurns, engineTurn, hb, engineStep, hs, expandStep, ht, expandFrom]
  | succ n ih =>
    have h1 : engineTurn s = goto s.seq.phase .expand (t + 1) { s with W := expandAt s.W t } := by
      simp [engineTurn, hb, engineStep, hs, expandStep, ht, show t < 63 by omega]
    rw [engineTurns, h1, ih (t + 1) _ (by simpa using hb) rfl rfl (by omega)]
    simp [goto, expandFrom]

/-- The rounds from `t` to their end. -/
theorem engineTurns_rounds (n t : Nat) (s : State) (hb : s.busy = true) (hs : s.seq.step = .round)
    (ht : s.seq.t = t) (hn : t + n + 1 = 64) :
    engineTurns (n + 1) s = goto s.seq.phase .feed 0 { s with V := roundsFrom s.W (n + 1) t s.V } := by
  induction n generalizing t s with
  | zero =>
    obtain rfl : t = 63 := by omega
    simp [engineTurns, engineTurn, hb, engineStep, hs, roundStep, ht, roundsFrom]
  | succ n ih =>
    have h1 : engineTurn s = goto s.seq.phase .round (t + 1) { s with V := roundAt s.W t s.V } := by
      simp [engineTurn, hb, engineStep, hs, roundStep, ht, show t < 63 by omega]
    rw [engineTurns, h1, ih (t + 1) _ (by simpa using hb) rfl rfl (by omega)]
    simp [goto, roundsFrom]

/-- What one block leaves once its words are in `W[0..15]`, before the sequencer goes on. -/
def blockDone (s : State) : State :=
  let c := compressBlock s.H s.W
  goto s.seq.phase .feed 0 { s with H := c.H, W := c.W, V := c.V }

/-- `EXPAND`, `INIT`, the rounds and `FEED` of one block: 114 engine steps. -/
theorem engineTurns_block (s : State) (hb : s.busy = true) (hs : s.seq.step = .expand) (ht : s.seq.t = 16) :
    engineTurns 114 s = afterBlock (blockDone s) := by
  rw [show 114 = 48 + (1 + (64 + 1)) by rfl, engineTurns_add, engineTurns_expand 47 16 s hb hs ht rfl,
    engineTurns_add]
  have h1 : engineTurns 1 (goto s.seq.phase .init 0 { s with W := expandFrom 48 16 s.W }) =
      goto s.seq.phase .round 0 { s with W := expand s.W, V := initWorking s.H } := by
    simp [engineTurns, engineTurn, hb, engineStep, goto, initStep, expand]
  rw [show 47 + 1 = 48 from rfl, h1, engineTurns_add,
    engineTurns_rounds 63 0 _ (by simpa using hb) rfl rfl rfl]
  simp [engineTurns, engineTurn, hb, engineStep, goto, feedStep, blockDone, compressBlock]

/-- One block of a padder run, from the loop's test at `FILL`: 115 engine steps. -/
theorem engineTurns_filled (s s' : State) (hb : s.busy = true) (hf : engineStep s = s') (hb' : s'.busy = true)
    (hs : s'.seq.step = .expand) (ht : s'.seq.t = 16) : engineTurns 115 s = afterBlock (blockDone s') := by
  rw [show 115 = 1 + 114 by rfl, engineTurns_add]
  have h1 : engineTurns 1 s = s' := by simp [engineTurns, engineTurn, hb, hf]
  rw [h1, engineTurns_block s' hb' hs ht]

/-! ## The engine and the host's list -/

theorem finishCurrent_host (s : State) (r : List Move) :
    finishCurrent { s with host := r } = { finishCurrent s with host := r } := by
  unfold finishCurrent
  cases s.seq.op <;> rfl

theorem fillOr_host (src : Nat → Byte) (after : State → State) (s : State) (r : List Move)
    (h : ∀ u : State, after { u with host := r } = { after u with host := r }) :
    fillOr src after { s with host := r } = { fillOr src after s with host := r } := by
  unfold fillOr
  by_cases hl : s.latch.I < s.latch.N
  · rw [if_pos hl, if_pos (show s.latch.I < s.latch.N from hl)]; rfl
  · rw [if_neg hl, if_neg (show ¬ s.latch.I < s.latch.N from hl), h]

theorem loadIvAtStart_host (s : State) (r : List Move) :
    loadIvAtStart { s with host := r } = { loadIvAtStart s with host := r } := by
  unfold loadIvAtStart
  by_cases h : s.latch.I = 0
  · rw [if_pos h, if_pos (show s.latch.I = 0 from h)]
  · rw [if_neg h, if_neg (show ¬ s.latch.I = 0 from h)]

theorem afterMessage_host (s : State) (r : List Move) :
    afterMessage { s with host := r } = { afterMessage s with host := r } := by
  unfold afterMessage
  by_cases h : s.seq.op = some .hash
  · rw [if_pos h, if_pos (show s.seq.op = some .hash from h)]; rfl
  · rw [if_neg h, if_neg (show ¬ s.seq.op = some .hash from h), finishCurrent_host]

theorem fillStep_host (s : State) (r : List Move) :
    fillStep { s with host := r } = { fillStep s with host := r } := by
  unfold fillStep
  cases hp : s.seq.phase with
  | idle => exact finishCurrent_host { s with H := IV } r
  | keyHash =>
    have := fillOr_host (engineByte s .key) (goto .keyBlock .fill 0) (loadIvAtStart s) r fun _ => rfl
    rw [← loadIvAtStart_host] at this
    exact this
  | keyBlock => rfl
  | innerKey => rfl
  | innerData => exact fillOr_host (engineByte s .data) saveInnerStep s r fun _ => rfl
  | outerKey => rfl
  | outerData => exact fillOr_host (serByte s.IS) (goto .store .fill 0) s r fun _ => rfl
  | msg =>
    by_cases h : s.seq.op = some .hash
    · have := fillOr_host (engineByte s .data) afterMessage (loadIvAtStart s) r fun u => afterMessage_host u r
      rw [← loadIvAtStart_host] at this
      simp only [h, if_true]
      exact this
    · simp only [h, if_false]
      exact fillOr_host (engineByte s .data) afterMessage s r fun u => afterMessage_host u r
  | store => exact finishCurrent_host (storeDigest s) r

theorem afterBlock_host (s : State) (r : List Move) :
    afterBlock { s with host := r } = { afterBlock s with host := r } := by
  unfold afterBlock
  cases hp : s.seq.phase with
  | msg =>
    by_cases h : s.seq.op = some .compress
    · simp only [h, if_true]; exact finishCurrent_host s r
    · simp only [h, if_false]; rfl
  | idle => exact finishCurrent_host s r
  | keyBlock => exact finishCurrent_host s r
  | store => exact finishCurrent_host s r
  | _ => rfl

theorem engineStep_host (s : State) (r : List Move) :
    engineStep { s with host := r } = { engineStep s with host := r } := by
  unfold engineStep
  cases hs : s.seq.step with
  | fill => exact fillStep_host s r
  | expand =>
    by_cases h : s.seq.t < 63
    · simp only [expandStep, if_pos h]; rfl
    · simp only [expandStep, if_neg h]; rfl
  | init => rfl
  | round =>
    by_cases h : s.seq.t < 63
    · simp only [roundStep, if_pos h]; rfl
    · simp only [roundStep, if_neg h]; rfl
  | feed => exact afterBlock_host { s with H := feed s.H s.V } r

/-- The engine takes no notice of the host's list. -/
theorem engineTurn_host (s : State) (r : List Move) :
    engineTurn { s with host := r } = { engineTurn s with host := r } := by
  unfold engineTurn
  by_cases hb : s.busy = true
  · rw [if_pos hb, if_pos (show s.busy = true from hb), engineStep_host]
  · rw [if_neg hb, if_neg (show ¬ s.busy = true from hb)]

theorem engineTurns_host (k : Nat) (s : State) (r : List Move) :
    engineTurns k { s with host := r } = { engineTurns k s with host := r } := by
  induction k generalizing s with
  | zero => rfl
  | succ k ih => rw [engineTurns, engineTurns, engineTurn_host, ih]

/-- So the byte the command in flight leaves in OUT does not depend on that list. -/
theorem newOutByte_host (a : Nat) (s : State) (r : List Move) :
    newOutByte a { s with host := r } = newOutByte a s := by
  unfold newOutByte
  cases s.seq.op with
  | none => rfl
  | some i => simp only [engineTurns_host]

end Sys2Proof.Machine
end

