-- ==== Sys2Proof/Laws/PerInstr.lean ====
section
/-! SUPPORT. Statements made instruction by instruction: every command's word is legal, decodes to the command, and is
what the opcode table's numbering gives. -/

namespace Sys2Proof

/-- The command is well formed, and its word passes both checks of format C and decodes to it (R45, R46). -/
def Laws.Encoding.Statement (i : Instr) : Prop :=
  i.wellFormed = true ∧ wordWellFormed (encode i) = true ∧ decode (encode i) = .ok i ∧
    decodeTableWord 32 (encode i).toNat = some i

theorem Laws.Encoding.loadIv : Laws.Encoding.Statement .loadIv := ⟨rfl, rfl, rfl, rfl⟩

theorem Laws.Encoding.compress : Laws.Encoding.Statement .compress := ⟨rfl, rfl, rfl, rfl⟩

theorem Laws.Encoding.process : Laws.Encoding.Statement .process := ⟨rfl, rfl, rfl, rfl⟩

theorem Laws.Encoding.storeDigest : Laws.Encoding.Statement .storeDigest := ⟨rfl, rfl, rfl, rfl⟩

theorem Laws.Encoding.hash : Laws.Encoding.Statement .hash := ⟨rfl, rfl, rfl, rfl⟩

theorem Laws.Encoding.hmac : Laws.Encoding.Statement .hmac := ⟨rfl, rfl, rfl, rfl⟩

end Sys2Proof
end

