-- ==== Sys2Proof/Laws/Step.lean ====
section
/-! SUPPORT. What one step of a run can be. -/

namespace Sys2Proof.Machine

/-- A move that is not a bus access is bound to itself. -/
theorem boundMove_self (p : Config.Platform) (m : Move) (h : ∀ addr acc, m ≠ .bus addr acc) : boundMove p m = m := by
  cases m with
  | bus addr acc => exact absurd rfl (h addr acc)
  | _ => rfl

@[simp] theorem issuedBy_write (n : BitVec 7) (v : Word) : issuedBy (.write n v) = commandOf n v := rfl

/-- Only a register write issues a command. -/
theorem issuedBy_some (m : Move) (i : Instr) (h : issuedBy m = some i) :
    ∃ v, m = .write 0 v ∧ decode v = .ok i := by
  cases m with
  | write n v =>
    simp only [issuedBy, commandOf] at h
    split at h
    · rename_i hn
      refine ⟨v, by rw [hn], ?_⟩
      cases hd : decode v with
      | ok j => rw [hd] at h; cases h; rfl
      | error r => rw [hd] at h; cases h
    · cases h
  | _ => cases h

/-- Everything a step can do: nothing pending, a command run to completion, or another move of the host's list. -/
theorem step_cases (s : State) :
    (s.host = [] ∧ step s = .next (engineTurn s)) ∨
    (∃ m rest i, s.host = m :: rest ∧ issuedBy (boundMove s.platform m) = some i ∧
      step s = exec i { s with host := rest }) ∨
    (∃ m rest, s.host = m :: rest ∧ issuedBy (boundMove s.platform m) = none ∧
      step s = makeMove (boundMove s.platform m) { s with host := rest }) := by
  cases hh : s.host with
  | nil => exact .inl ⟨rfl, by simp [step, hh, noMove]⟩
  | cons m rest =>
    right
    cases hi : issuedBy (boundMove s.platform m) with
    | some i => exact .inl ⟨m, rest, i, rfl, hi, by simp [step, hh, hi]⟩
    | none => exact .inr ⟨m, rest, rfl, hi, by simp [step, hh, hi]⟩

/-- A step depends on its move through what the move is bound to. -/
theorem step_congr_move (s : State) (m m' : Move) (rest : List Move)
    (h : boundMove s.platform m = boundMove s.platform m') :
    step { s with host := m :: rest } = step { s with host := m' :: rest } := by
  simp only [step, h]

/-- The first index found is in range and bound to the address. -/
theorem indexFrom_some (b : Vector Nat 128) (addr k n j : Nat) (h : indexFrom b addr k n = some j) :
    ∃ hj : j < 128, b[j] = addr := by
  induction k generalizing n with
  | zero => cases h
  | succ k ih =>
    rw [indexFrom] at h
    split at h
    · split at h
      · cases h; exact ⟨‹_›, ‹_›⟩
      · exact ih _ h
    · cases h

/-- A bound index in the range searched is found, if it is the only one with its address. -/
theorem indexFrom_found (b : Vector Nat 128) (j : Nat) (hj : j < 128)
    (hb : ∀ (i : Nat) (hi : i < 128), b[i] = b[j] → i = j) (k n : Nat) (h1 : n ≤ j) (h2 : j < n + k) :
    indexFrom b b[j] k n = some j := by
  induction k generalizing n with
  | zero => omega
  | succ k ih =>
    rw [indexFrom, dif_pos (show n < 128 by omega)]
    split
    · rename_i he; rw [hb n _ he]
    · rename_i he
      refine ih (n + 1) ?_ (by omega)
      rcases Nat.lt_or_eq_of_le h1 with h | h
      · omega
      · subst h; exact absurd rfl he

/-- A command's meaning answers a next state from every state. -/
theorem exec_answers (i : Instr) (s : State) :
    exec i s = .next s ∨ (∃ c, exec i s = .next (raise c s)) ∨ exec i s = .next (runCommand i (accept i s)) := by
  rw [exec_eq_issue]
  rcases issue_cases i (runCommand i) s with h | h | h | h | h
  · exact .inl h.2
  · exact .inr (.inl ⟨_, h.2.2⟩)
  · exact .inr (.inl ⟨_, h.2.2⟩)
  · exact .inr (.inl ⟨_, h.2.2.2⟩)
  · exact .inr (.inr h.2.2.2)

end Sys2Proof.Machine
end

