-- ==== Sys2Proof/Tests/Slice0.lean ====
section
/-! SUPPORT. Tests of the model against the numbers of 95_test_vectors.md, the smoke tests of the two checks of a command
word, and for every statement with hypotheses a theorem showing that something meets them. -/

namespace Sys2Proof.Machine

/-! ## Small states -/

/-- An idle state with every datapath element zero, on the platform of part 2.6 (256, 256 and 40 bytes). -/
def Tests.idle : State :=
  { State.reset with
    H := Vector.replicate 8 0
    W := Vector.replicate 64 0
    V := ⟨0, 0, 0, 0, 0, 0, 0, 0⟩
    KB := Vector.replicate 64 0
    IS := Vector.replicate 8 0
    latch := ⟨0, 0, 0, 0, 0, 0, 0, 0⟩ }

/-- `n` bytes `b` from index 0. -/
def Tests.filled (b : Byte) (n : Nat) : Memory := (List.range n).map fun a => (a, b)

/-- DATA holds `616263` ("abc") and `DATA_LEN = 3`; `OUT_LEN = 32`; OUT is preset to `ee`. -/
def Tests.abc : State :=
  { Tests.idle with
    data := [(0, 0x61), (1, 0x62), (2, 0x63)]
    out := Tests.filled 0xEE 40
    dataLen := 3
    outLen := 32 }

/-- The same with one byte beyond `DATA_LEN`, another `H` and another `OFFSET`. -/
def Tests.abcDirty : State :=
  { Tests.abc with
    H := Vector.replicate 8 0xFFFFFFFF
    offset := 5
    data := [(0, 0x61), (1, 0x62), (2, 0x63), (3, 0x64)] }

/-- KEY holds 20 bytes `0b` and DATA `"Hi There"`: case 1 of part 2.5. -/
def Tests.hmacCase1 : State :=
  { Tests.idle with
    key := Tests.filled 0x0B 20
    data := [(0, 0x48), (1, 0x69), (2, 0x20), (3, 0x54), (4, 0x68), (5, 0x65), (6, 0x72), (7, 0x65)]
    keyLen := 20
    dataLen := 8
    outLen := 32 }

/-- `LOAD_IV` has been accepted and has not moved yet. -/
def Tests.loading : State := { Tests.idle with busy := true, seq := ⟨some .loadIv, .idle, .fill, 0⟩ }

/-- `HMAC` with a key of 65 bytes is in flight: round 5 of the second block of phase `KEY_HASH`. -/
def Tests.keyHashing : State :=
  { Tests.idle with
    busy := true
    keyLen := 65
    outLen := 32
    latch := ⟨65, 0, 2, 1, 65, 32, 65, 0⟩
    seq := ⟨some .hmac, .keyHash, .round, 5⟩ }

/-- The registers at bus addresses from `0x1000` up, eight apart. -/
def Tests.onBus : State :=
  { Tests.idle with platform := { Tests.idle.platform with regBinding := Vector.ofFn fun n => 0x1000 + 8 * n.val } }

/-- Faulted with cause 1 (R121). -/
def Tests.faulted : State := { Tests.idle with fault := true, cause := 1 }

/-- The final state of `HASH` for "abc": the last table row of part 2.2 after `FEED`. -/
def Tests.abcState : Hash :=
  #v[0xba7816bf, 0x8f01cfea, 0x414140de, 0x5dae2223, 0xb00361a3, 0x96177a9c, 0xb410ff61, 0xf20015ad]

/-- The schedule whose first words are the block of "abc" (part 2.2). -/
def Tests.abcSchedule : Schedule := ((Vector.replicate 64 0).set 0 0x61626380).set 15 0x00000018

/-- The outcome is a next state with the property. -/
def Tests.answers (o : Host.Outcome State Fault Refusal) (p : State → Bool) : Bool :=
  match o with
  | .next t => p t
  | .fault _ => false
  | .refused _ => false

/-! ## Command words -/

/-- Ill-formed for the first check: legal `OP`, a reserved bit set (part 2.6, the word `0x00000105`). -/
theorem test_wellFormed_refuses_reserved_bits :
    wordWellFormed 0x00000105 = false ∧ decode 0x00000105 = .error .reservedBits := by decide

/-- Ill-formed for the second check: `OP` 0 and `OP` 7 (part 2.6). -/
theorem test_wellFormed_refuses_undefined_op :
    wordWellFormed 0x00000000 = false ∧ decode 0x00000000 = .error .undefinedOp ∧
    wordWellFormed 0x00000007 = false ∧ decode 0x00000007 = .error .undefinedOp := by decide

/-- The highest reserved bit alone makes a word illegal. -/
theorem test_wellFormed_refuses_bit31 : wordWellFormed 0x80000001 = false := by decide

/-- The words of R46, written out bit by bit. -/
theorem test_decode_words :
    decode 0b00000000000000000000000000000001#32 = .ok .loadIv ∧
    decode 0b00000000000000000000000000000010#32 = .ok .compress ∧
    decode 0b00000000000000000000000000000011#32 = .ok .process ∧
    decode 0b00000000000000000000000000000100#32 = .ok .storeDigest ∧
    decode 0b00000000000000000000000000000101#32 = .ok .hash ∧
    decode 0b00000000000000000000000000000110#32 = .ok .hmac := by decide

/-- A longer instruction with a bit above the word, and a shorter one, whose missing bits are zero. -/
theorem test_decodeTableWord :
    decodeTableWord 32 5 = some .hash ∧ decodeTableWord 8 5 = some .hash ∧
    decodeTableWord 64 0x100000005 = none ∧ decodeTableWord 32 0x105 = none := by decide

/-! ## Commands, one step each -/

/-- Part 2.4: `H` after `LOAD_IV`. -/
theorem test_loadIv : Tests.answers (exec .loadIv Tests.idle) (fun t =>
    decide (t.H = #v[0x6a09e667, 0xbb67ae85, 0x3c6ef372, 0xa54ff53a, 0x510e527f, 0x9b05688c, 0x1f83d9ab, 0x5be0cd19])
      && decide (statusWord t = 2)) = true := by decide

set_option maxRecDepth 100000 in
/-- Part 2.2: `COMPRESS` of the block of "abc" from `IV`; `H` and the first and last expanded words. -/
theorem test_compress_abc : Tests.answers (exec .compress { Tests.idle with H := IV, W := Tests.abcSchedule }) (fun t =>
    decide (t.H = Tests.abcState) && decide (t.W[16] = 0x61626380) && decide (t.W[63] = 0x12b1edeb)
      && decide (t.W[0] = 0x61626380)) = true := by decide +kernel

set_option maxRecDepth 100000 in
/-- Part 2.2: the zero block from the zero state, where only `K` drives the rounds. -/
theorem test_compress_zero : Tests.answers (exec .compress Tests.idle) (fun t =>
    decide (t.H = #v[0x7ca51614, 0x425c3ba8, 0xce54dd2f, 0xc2020ae7, 0xb6e574d1, 0x98136d0f, 0xae7e26cc, 0xbf0be7a6]))
      = true := by decide +kernel

set_option maxRecDepth 100000 in
/-- Part 2.3: `PROCESS` of "abc" from `IV` with `OFFSET = 64`. -/
theorem test_process_offset : Tests.answers (exec .process { Tests.abc with H := IV, offset := 64 }) (fun t =>
    decide (t.H = #v[0x536d28c7, 0x5fdaec1d, 0x7d2f545c, 0xa952ba8c, 0xed1e566e, 0xf099a969, 0x2a0d91c2, 0xc1ea337b]))
      = true := by decide +kernel

/-- Part 2.3: `OFFSET = 2^61` faults `LENGTH_RANGE` and leaves `H`. -/
theorem test_process_length : Tests.answers (exec .process { Tests.idle with offset := 0x2000000000000000 }) (fun t =>
    decide (statusWord t = 4) && decide (causeWord t = 3) && decide (t.H = Tests.idle.H)) = true := by decide

/-- Part 2.4: `OUT_LEN = 16` writes 16 bytes and keeps the preset above them. -/
theorem test_storeDigest_16 :
    Tests.answers (exec .storeDigest { Tests.abc with H := Tests.abcState, outLen := 16 }) (fun t =>
      decide (t.out.read 0 = 0xBA) && decide (t.out.read 1 = 0x78) && decide (t.out.read 15 = 0x23)
        && decide (t.out.read 16 = 0xEE) && decide (t.out.read 39 = 0xEE)) = true := by decide

/-- Part 2.6: `OUT_LEN = 41` with `OUT_CAP = 40` faults `BUFFER_RANGE`; nothing is written. -/
theorem test_storeDigest_range : Tests.answers (exec .storeDigest { Tests.abc with outLen := 41 }) (fun t =>
    decide (statusWord t = 4) && decide (causeWord t = 4) && decide (t.out = Tests.abc.out)) = true := by decide

set_option maxRecDepth 100000 in
/-- Part 1.1: `HASH` of "abc". -/
theorem test_hash_abc : Tests.answers (exec .hash Tests.abc) (fun t => decide (t.H = Tests.abcState)) = true := by
  decide +kernel

/-- Part 2.6: `DATA_LEN = 2^61` faults `LENGTH_RANGE`, before the range check. -/
theorem test_hash_length : Tests.answers (exec .hash { Tests.idle with dataLen := 0x2000000000000000 }) (fun t =>
    decide (statusWord t = 4) && decide (causeWord t = 3)) = true := by decide

set_option maxRecDepth 100000 in
/-- Part 2.5, case 1: `KB`, `IS` and the final state. -/
theorem test_hmac_case1 : Tests.answers (exec .hmac Tests.hmacCase1) (fun t =>
    decide (t.KB[19] = 0x0B) && decide (t.KB[20] = 0) &&
    decide (t.IS = #v[0x92ab4d9a, 0x1f3b6152, 0xbca9dd9e, 0x69af43f4, 0xce99e42f, 0xd4e30ff9, 0x72c48025, 0xb9f9cfef])
      && decide (t.H =
        #v[0xb0344c61, 0xd8db3853, 0x5ca8afce, 0xaf0bf12b, 0x881dc200, 0xc9833da7, 0x26e9376c, 0x2e32cff7]))
      = true := by decide +kernel

/-- Part 2.6: `DLEN + 64 = 2^61` faults `LENGTH_RANGE`; a key beyond `KEY_CAP` faults `BUFFER_RANGE`. -/
theorem test_hmac_faults :
    Tests.answers (exec .hmac { Tests.idle with dataLen := 0x1fffffffffffffc0 }) (fun t => decide (causeWord t = 3))
      = true ∧
    Tests.answers (exec .hmac { Tests.idle with keyLen := 257 }) (fun t => decide (causeWord t = 4)) = true := by
  decide

/-! ## Host moves, one step each (part 2.6) -/

/-- An illegal word, a write to `STATUS` and a write to a reserved index. -/
theorem test_write_faults :
    Tests.answers (step { Tests.idle with host := [.write 0 7] })
      (fun t => decide (statusWord t = 4) && decide (causeWord t = 1)) = true ∧
    Tests.answers (step { Tests.idle with host := [.write 1 0] }) (fun t => decide (causeWord t = 5)) = true ∧
    Tests.answers (step { Tests.idle with host := [.write 12 0] }) (fun t => decide (causeWord t = 5)) = true := by
  decide

/-- `CMD LOAD_IV`, and while `BUSY = 1` a write of `DATA_LEN_LO`: cause 2. -/
theorem test_write_while_busy :
    Tests.answers (step { Tests.loading with host := [.write 4 1] })
      (fun t => decide (statusWord t = 4) && decide (causeWord t = 2)) = true := by decide

/-- The model's `start` leaves `BUSY = 1` standing; the engine's one step completes `LOAD_IV`. -/
theorem test_start_then_engine :
    Tests.answers (step { Tests.idle with host := [.start 1] })
      (fun t => decide (statusWord t = 1) && decide (t.seq = Tests.loading.seq)) = true ∧
    Tests.answers (step Tests.loading) (fun t => decide (statusWord t = 2) && decide (t.H = IV)) = true := by decide

/-- In the faulted state writes are ignored and the cause stays. -/
theorem test_faulted_ignores :
    Tests.answers (step { Tests.faulted with host := [.write 1 0] })
      (fun t => decide (statusWord t = 4) && decide (causeWord t = 1)) = true ∧
    Tests.answers (step { Tests.faulted with host := [.write 0 1] }) (fun t => decide (t.H = Tests.faulted.H))
      = true := by decide

/-- After any fault `RESET` clears the registers. -/
theorem test_reset :
    Tests.answers (step { Tests.faulted with dataLen := 9, host := [.reset] })
      (fun t => decide (statusWord t = 0) && decide (causeWord t = 0) && decide (t.dataLen = 0)) = true := by decide

/-- `RD` of `CMD`, of a reserved index and of `STATUS` right after reset. -/
theorem test_reads :
    readValue 0 State.reset = 0 ∧ readValue 3 State.reset = 0 ∧ readValue 127 State.reset = 0 ∧
    readValue 1 State.reset = 0 := by decide

/-- R34: `R[4] <- 2`, `R[5] <- 1` make `DATA_LEN = 2^32 + 2`. -/
theorem test_operand_pair :
    (writeRegister 5 1 (writeRegister 4 2 Tests.idle)).dataLen = 0x0000000100000002 := by decide

/-- Part 3, program 1, line 2: `LOAD DATA, 616263` puts the bytes in rising order; a buffer byte that does not exist
stops. -/
theorem test_poke :
    Tests.answers (step { Tests.abc with host := [.poke .data 1 0x7A] })
      (fun t => decide (t.data = [(0, 0x61), (1, 0x7A), (2, 0x63)])) = true ∧
    step { Tests.abc with host := [.poke .data 256 0] } = .fault (.noSuchByte .data 256) := by
  exact ⟨by decide, rfl⟩

/-- D2: on a bus with registers eight apart, `0x1080` is register 16, `H[0]`, and `0x1004` is none. -/
theorem test_bus :
    Tests.answers (step { Tests.onBus with host := [.bus 0x1080 (.write 7)] }) (fun t => decide (t.H[0] = 7)) = true ∧
    indexAt Tests.onBus.platform 0x1004 = none ∧ indexAt Tests.onBus.platform 0x13F8 = some 127 := by decide +kernel

/-- R145: while `HMAC` is in flight with `OUT_LEN = 32`, OUT byte 32 reads as it stands. -/
theorem test_peek_above_store :
    Tests.answers (step { Tests.keyHashing with out := [(32, 0xEE)], host := [.peek 32] })
      (fun t => decide (t.byteRead = 0xEE)) = true := by decide

/-- R51: `sha256` writes the stated length, not the count of the bytes loaded. -/
theorem test_script_length :
    Script.sha256 [0x61] 257 0 =
      [.poke .data 0 0x61, .write 4 257, .write 5 0, .write 8 0, .write 9 0, .write 0 5, .wait] := by decide

/-- `withFetchWord` makes the next step the command. -/
theorem test_withFetchWord :
    step (Tests.idle.withFetchWord 32 1) = exec .loadIv Tests.idle := rfl

/-! ## Something meets the hypotheses of every statement -/

theorem witness_DecoderMatchesExactlySixWords :
    (∀ i, (0 : Word) ≠ encode i) ∧ (∀ i, (7 : Word) ≠ encode i) ∧ (∀ i, (0x105 : Word) ≠ encode i) := by
  refine ⟨?_, ?_, ?_⟩ <;> intro i <;> cases i <;> decide

theorem witness_StepRunsTheCommandWritten :
    ({ Tests.idle with host := [.write 0 6, .wait] } : State).host = .write 0 6 :: [.wait] ∧ decode 6 = .ok .hmac :=
  ⟨rfl, rfl⟩

theorem witness_Add32IsSumModuloTwoPow32 : List.Perm ([1, 0xFFFFFFFF, 2] : List Word) [2, 1, 0xFFFFFFFF] := by decide

/-- Both ends of the rotation's range. -/
theorem witness_RotrMovesEveryBit : ((1 : Nat) ≤ 1 ∧ 1 ≤ 31 ∧ 0 < 32) ∧ ((1 : Nat) ≤ 31 ∧ 31 ≤ 31 ∧ 31 < 32) := by decide

/-- The lowest bit `shr` by 1 and by 32 or more clears. -/
theorem witness_ShrIsUnsignedDivision : (32 - 1 ≤ 31) ∧ (32 - 31 ≤ 1) ∧ (32 - 40 ≤ 0) := by decide

theorem witness_SigmasBitByBit : (0 < 32) ∧ (31 < 32) := by decide

theorem witness_LengthArithmeticDoesNotWrap : maxTotal + 0 ≤ maxTotal ∧ 0 + maxTotal ≤ maxTotal ∧ 3 + 64 ≤ maxTotal := by
  decide

theorem witness_ConstantsAreRootFractions : (63 < 64) ∧ (7 < 8) := by decide

theorem witness_SerialisersAreBigEndianInverses : (3 < 4) ∧ (7 < 8) ∧ Tests.abcState[0] = 0xBA7816BF := by decide

theorem witness_BlockViewOfTheSchedule : (63 < 64) ∧ (15 < 16) ∧ (16 ≤ 16 ∧ 63 < 64) := by decide

/-- The zero schedule, the schedule of ones and the one of "abc", and two schedules that differ above word 15 only. -/
theorem witness_ExpansionRecurrence :
    (∀ (t : Nat) (h : t < 16), (Vector.replicate 64 (0 : Word))[t] = 0) ∧
    (∀ (t : Nat) (h : t < 16), (Vector.replicate 64 (0xFFFFFFFF : Word))[t] = 0xFFFFFFFF) ∧
    (Tests.abcSchedule[0] = 0x61626380 ∧ (∀ (t : Nat) (h : 1 ≤ t ∧ t < 15), Tests.abcSchedule[t] = 0) ∧
      Tests.abcSchedule[15] = 0x00000018) ∧
    (∀ (t : Nat) (h : t < 16), Tests.abcSchedule[t] = (Tests.abcSchedule.set 16 1)[t]) ∧
    (16 ≤ 16 ∧ 16 < 64) ∧ (16 ≤ 63 ∧ 63 < 64) := by
  refine ⟨by simp, by simp, ⟨rfl, ?_, rfl⟩, ?_, by decide, by decide⟩
  · intro t h
    rw [Tests.abcSchedule, Vector.getElem_set_ne _ _ (by omega), Vector.getElem_set_ne _ _ (by omega)]
    simp
  · intro t h
    rw [Vector.getElem_set_ne _ _ (by omega)]

theorem witness_CompressBlockIsSixtyFourRounds : (0 < 64) ∧ (63 < 64) := by decide

theorem witness_CompressionDependsOnStateAndBlockAlone :
    (∀ (t : Nat) (h : t < 16), Tests.abcSchedule[t] = (Tests.abcSchedule.set 63 7)[t]) ∧
    Tests.abcSchedule ≠ Tests.abcSchedule.set 63 7 := by
  constructor
  · intro t h
    rw [Vector.getElem_set_ne _ _ (by omega)]
  · decide

/-- Length 56, two blocks: the last data byte, the terminator, the last zero, the first and the last trailer byte. -/
theorem witness_PaddedSequenceLayout :
    nblocks 56 = 2 ∧ (55 < 64 * nblocks 56 ∧ 55 < 56) ∧ (56 < 64 * nblocks 56 ∧ ¬ 56 < 56) ∧
    (119 < 64 * nblocks 56 - 8) ∧ (120 < 64 * nblocks 56 ∧ ¬ 120 < 64 * nblocks 56 - 8) ∧
    (127 < 64 * nblocks 56) := by decide

theorem witness_ZeroLengthInputIsOneBlock : (63 < 64) ∧ (1 ≤ 1 ∧ 1 < 16) ∧ (1 ≤ 15 ∧ 15 < 16) := by decide

/-- Two sources that agree below length 3 and differ at 3. -/
theorem witness_PadderReadsOnlyTheStatedBytes :
    (∀ g, g < 3 → Tests.abc.data.read g = Tests.abcDirty.data.read g) ∧
    Tests.abc.data.read 3 ≠ Tests.abcDirty.data.read 3 := by decide

theorem witness_OuterDataBlockWordByWord : (7 < 8) ∧ (9 ≤ 9 ∧ 9 ≤ 14) ∧ (9 ≤ 14 ∧ 14 ≤ 14) := by decide

/-- The lengths on both sides of the strict test, and byte positions on both sides of the copied part. -/
theorem witness_KeyBlockOfShortAndLongKeys : (64 ≤ 64) ∧ (64 < 65) ∧ (0 ≤ 64) ∧ (63 < 64) := by decide

/-- The key of 20 bytes `0b`, and both ends of the two word ranges. -/
theorem witness_PaddedKeyWords :
    (∀ j, j < 20 → Tests.hmacCase1.key.read j = 0x0B) ∧ (4 < 5) ∧ (5 ≤ 5 ∧ 5 < 16) ∧ (5 ≤ 15 ∧ 15 < 16) := by decide

theorem witness_LoadIvSetsH : isIdle Tests.idle = true ∧ (7 < 8) := by decide

theorem witness_CompressCompressesTheBlockInW : isIdle Tests.idle = true ∧ (15 < 16) := by decide

/-- The largest legal total, and the largest length the platform holds. -/
theorem witness_ProcessRunsThePadderFromH :
    (let s := { Tests.idle with offset := 0x1fffffffffffffff }
     isIdle s = true ∧ s.dataLen.toNat + s.offset.toNat ≤ 2 ^ 61 - 1 ∧ s.dataLen.toNat ≤ s.platform.dataCap) ∧
    (let s := { Tests.idle with dataLen := 256 }
     isIdle s = true ∧ s.dataLen.toNat + s.offset.toNat ≤ 2 ^ 61 - 1 ∧ s.dataLen.toNat ≤ s.platform.dataCap) := by
  decide

theorem witness_StoreDigestWritesThePrefix :
    isIdle { Tests.abc with outLen := 40 } = true ∧ (40 : Size).toNat ≤ Tests.abc.platform.outCap := by decide

theorem witness_HashDigestsData :
    isIdle Tests.abc = true ∧ Tests.abc.dataLen.toNat ≤ 2 ^ 61 - 1 ∧
    Tests.abc.dataLen.toNat ≤ Tests.abc.platform.dataCap ∧ Tests.abc.outLen.toNat ≤ Tests.abc.platform.outCap := by
  decide

theorem witness_HmacAuthenticatesData :
    let s := Tests.hmacCase1
    isIdle s = true ∧ s.dataLen.toNat + 64 ≤ 2 ^ 61 - 1 ∧ s.keyLen.toNat ≤ 2 ^ 61 - 1 ∧
    s.dataLen.toNat ≤ s.platform.dataCap ∧ s.keyLen.toNat ≤ s.platform.keyCap ∧
    s.outLen.toNat ≤ s.platform.outCap := by decide

theorem witness_HashIsItsThreePartCommands :
    isIdle Tests.abc = true ∧ Tests.abc.dataLen.toNat ≤ 2 ^ 61 - 1 ∧
    Tests.abc.dataLen.toNat ≤ Tests.abc.platform.dataCap ∧ Tests.abc.outLen.toNat ≤ Tests.abc.platform.outCap := by
  decide

/-- For `OUT_LEN` 0, 16 and 40. -/
theorem witness_TruncationLaw :
    let s := Tests.hmacCase1
    (Instr.hash = .hash ∨ Instr.hash = .hmac) ∧ (Instr.hmac = .hash ∨ Instr.hmac = .hmac) ∧
    isIdle s = true ∧ s.out.wf = true ∧ s.dataLen.toNat ≤ 2 ^ 61 - 1 ∧ s.dataLen.toNat + 64 ≤ 2 ^ 61 - 1 ∧
    s.keyLen.toNat ≤ 2 ^ 61 - 1 ∧ s.dataLen.toNat ≤ s.platform.dataCap ∧ s.keyLen.toNat ≤ s.platform.keyCap ∧
    (0 : Size).toNat ≤ s.platform.outCap ∧ (16 : Size).toNat ≤ s.platform.outCap ∧
    (40 : Size).toNat ≤ s.platform.outCap ∧ 32 ≤ s.platform.outCap := by decide

/-- Two states that differ in `H`, `OFFSET` and a byte beyond `DATA_LEN`. -/
theorem witness_HashAndHmacIgnoreLeftovers :
    let s := Tests.abc
    let s' := Tests.abcDirty
    s.platform = s'.platform ∧ isIdle s = true ∧ isIdle s' = true ∧ s.dataLen = s'.dataLen ∧
    s.keyLen = s'.keyLen ∧ s.outLen = s'.outLen ∧
    (∀ g, g < s.dataLen.toNat → s.data.read g = s'.data.read g) ∧ s.out.wf = true ∧ s'.out.wf = true ∧ s.dataLen.toNat ≤ 2 ^ 61 - 1 ∧ s.dataLen.toNat + 64 ≤ 2 ^ 61 - 1 ∧
    s.dataLen.toNat ≤ s.platform.dataCap ∧ s.outLen.toNat ≤ s.platform.outCap ∧
    (∀ g, g < s.keyLen.toNat → s.key.read g = s'.key.read g) ∧ s.keyLen.toNat ≤ 2 ^ 61 - 1 ∧
    s.keyLen.toNat ≤ s.platform.keyCap ∧ s.H ≠ s'.H := ⟨rfl, by decide⟩

/-- By an atomic write and by a `start`. -/
theorem witness_IllegalWordFaults :
    isIdle Tests.idle = true ∧ (∀ i, (0x105 : Word) ≠ encode i) ∧
    ({ Tests.idle with host := [.write 0 0x105] } : State).host = .write 0 0x105 :: [] ∧
    ({ Tests.idle with host := [.start 0x105] } : State).host = .start 0x105 :: [] := by
  refine ⟨by decide, ?_, rfl, rfl⟩
  intro i
  cases i <;> decide

theorem witness_WriteWhileBusyFaults :
    Tests.loading.busy = true ∧ Tests.loading.fault = false ∧
    ({ Tests.loading with host := [.write 0 1] } : State).host = .write 0 1 :: [] ∧
    ({ Tests.loading with host := [.write 127 0] } : State).host = .write 127 0 :: [] ∧
    ({ Tests.loading with host := [.start 1] } : State).host = .start 1 :: [] ∧
    ({ Tests.loading with host := [.read 0] } : State).host = .read 0 :: [] := ⟨rfl, rfl, rfl, rfl, rfl, rfl⟩

/-- Each clause one above the limit, and the last clause's premises at a state that takes the fault. -/
theorem witness_LengthRangeFaults :
    isIdle Tests.idle = true ∧ 2 ^ 61 - 1 < (1 : Size).toNat + (0x1fffffffffffffff : Size).toNat ∧
    2 ^ 61 - 1 < (0x2000000000000000 : Size).toNat ∧ 2 ^ 61 - 1 < (0x1fffffffffffffc0 : Size).toNat + 64 ∧
    Tests.answers (exec .hmac { Tests.idle with keyLen := 0x2000000000000000 }) (fun t =>
      t.fault && !t.busy && !t.done && decide (t.cause = causeCode .lengthRange) && decide (t.seq = Seq.rest))
      = true := by decide

/-- Each clause one above the capacity, and the last clause's premises at a state that takes the fault. -/
theorem witness_BufferRangeFaults :
    let s := { Tests.idle with dataLen := 257, keyLen := 257, outLen := 41 }
    isIdle s = true ∧ s.dataLen.toNat + s.offset.toNat ≤ 2 ^ 61 - 1 ∧ s.dataLen.toNat ≤ 2 ^ 61 - 1 ∧
    s.dataLen.toNat + 64 ≤ 2 ^ 61 - 1 ∧ s.keyLen.toNat ≤ 2 ^ 61 - 1 ∧ s.platform.dataCap < s.dataLen.toNat ∧
    s.platform.keyCap < s.keyLen.toNat ∧ s.platform.outCap < s.outLen.toNat ∧
    Tests.answers (exec .hmac s) (fun t =>
      t.fault && !t.busy && !t.done && decide (t.cause = causeCode .bufferRange) && decide (t.seq = Seq.rest))
      = true := by decide

/-- The ends of the four index ranges. -/
theorem witness_IllegalAccessFaults :
    isIdle Tests.idle = true ∧ ({ Tests.idle with host := [.write 96 0] } : State).host = .write 96 0 :: [] ∧
    (1 ≤ (1#7).toNat ∧ (3#7).toNat ≤ 3) ∧ (12 ≤ (12#7).toNat ∧ (15#7).toNat ≤ 15) ∧
    (24 ≤ (24#7).toNat ∧ (31#7).toNat ≤ 31) ∧ 96 ≤ (96#7).toNat ∧ 96 ≤ (127#7).toNat := by
  exact ⟨rfl, rfl, by decide, by decide, by decide, by decide, by decide⟩

theorem witness_FaultedBlockIgnoresWrites :
    Tests.faulted.fault = true ∧ ({ Tests.faulted with host := [.write 0 5] } : State).host = .write 0 5 :: [] ∧
    ({ Tests.faulted with host := [.start 7] } : State).host = .start 7 :: [] := ⟨rfl, rfl, rfl⟩

theorem witness_FaultIsStickyUntilReset :
    Tests.faulted.fault = true ∧ (∀ rest, Tests.faulted.host ≠ .reset :: rest) ∧
    step Tests.faulted = .next Tests.faulted ∧
    ({ Tests.faulted with host := [.reset] } : State).host = .reset :: [] := by
  exact ⟨rfl, fun _ h => List.cons_ne_nil _ _ h.symm, rfl, rfl⟩

/-- An idle, a busy and a faulted state. -/
theorem witness_ResetActionInAnyState :
    ({ Tests.idle with host := [.reset] } : State).host = .reset :: [] ∧ Tests.loading.busy = true ∧
    Tests.loading.latch.OLEN.toNat ≤ 0 ∧ Tests.faulted.busy = false ∧ 32 ≤ 32 := ⟨rfl, rfl, by decide, rfl, by decide⟩

/-- An idle, a busy, a completed and a faulted status. -/
theorem witness_StatusBits :
    StatusLegal Tests.idle ∧ StatusLegal Tests.loading ∧ StatusLegal { Tests.idle with done := true } ∧
    StatusLegal Tests.faulted := by
  refine ⟨⟨by decide, fun h => Bool.noConfusion h, by decide⟩, ⟨by decide, fun h => Bool.noConfusion h, by decide⟩,
    ⟨by decide, fun h => Bool.noConfusion h, by decide⟩, ⟨by decide, fun _ => ⟨rfl, rfl, .illegalCmd, rfl⟩, by decide⟩⟩

theorem witness_RegisterReads :
    isIdle Tests.idle = true ∧ (3#7).toNat = 3 ∧ (12 ≤ (15#7).toNat ∧ (15#7).toNat ≤ 15) ∧
    (24 ≤ (31#7).toNat ∧ (31#7).toNat ≤ 31) ∧ 96 ≤ (127#7).toNat ∧ (7 < 8) ∧ (63 < 64) ∧
    ({ Tests.idle with host := [.read 1] } : State).host = .read 1 :: [] :=
  ⟨rfl, rfl, by decide, by decide, by decide, by decide, by decide, rfl⟩

/-- The ends of the three index ranges, and another index. -/
theorem witness_RegisterWriteTakesTheWord :
    isIdle Tests.idle = true ∧ ({ Tests.idle with host := [.write 4 9] } : State).host = .write 4 9 :: [] ∧
    (4 ≤ (4#7).toNat ∧ (11#7).toNat ≤ 11) ∧ (16 ≤ (16#7).toNat ∧ (23#7).toNat ≤ 23) ∧
    (32 ≤ (32#7).toNat ∧ (95#7).toNat ≤ 95) ∧ (5 : BitVec 7) ≠ 4 :=
  ⟨rfl, rfl, by decide, by decide, by decide, by decide⟩

theorem witness_OperandHalvesInAnyOrder : isIdle Tests.idle = true := rfl

theorem witness_RegisterMap :
    regAt 95 = some (.sched 63) ∧ regAt 16 = some (.hash 0) ∧ regAt 3 = none ∧ regAt 96 = none ∧ (3#7).toNat = 3 := by
  decide

/-- A binding D2 allows, the address of an index, and an address nothing is bound to. -/
theorem witness_RegisterMap_binding :
    Tests.onBus.platform.bindingOk ∧ Tests.onBus.platform.regBinding[(127#7).toNat] = 0x13F8 ∧
    (∀ (k : Nat) (h : k < 128), Tests.onBus.platform.regBinding[k] ≠ 0x1004) ∧
    ({ Tests.onBus with host := [.bus 0x1004 .read] } : State).host = .bus 0x1004 .read :: [] := by
  refine ⟨fun i j hi hj h => ?_, rfl, fun k h => ?_, rfl⟩
  · simp only [Tests.onBus, Vector.getElem_ofFn] at h
    omega
  · simp only [Tests.onBus, Vector.getElem_ofFn]
    omega

/-- Two states that differ in every hidden element. -/
theorem witness_HiddenStateIsUnreadable :
    let s := Tests.abc
    let s' := { Tests.abc with
      V := ⟨1, 2, 3, 4, 5, 6, 7, 8⟩, KB := Vector.replicate 64 9, IS := Vector.replicate 8 9,
      latch := ⟨1, 2, 3, 4, 5, 6, 7, 8⟩, seq := ⟨some .hmac, .keyHash, .round, 5⟩ }
    s.H = s'.H ∧ s.W = s'.W ∧ s.dataLen = s'.dataLen ∧ s.keyLen = s'.keyLen ∧ s.outLen = s'.outLen ∧
    s.offset = s'.offset ∧ s.busy = s'.busy ∧ s.done = s'.done ∧ s.fault = s'.fault ∧ s.cause = s'.cause ∧
    s.out = s'.out ∧ s.draws = s'.draws ∧ s ≠ s' := by
  refine ⟨rfl, rfl, rfl, rfl, rfl, rfl, rfl, rfl, rfl, rfl, rfl, rfl, ?_⟩
  intro h
  exact absurd (congrArg (fun u => u.V.a) h) (by decide)

/-- The last byte of each space. -/
theorem witness_BufferWriteChangesOneByte :
    Tests.abc.busy = false ∧ ({ Tests.abc with host := [.poke .out 39 1] } : State).host = .poke .out 39 1 :: [] ∧
    39 < capacity Tests.abc.platform .out ∧ 255 < capacity Tests.abc.platform .data ∧
    255 < capacity Tests.abc.platform .key ∧ (spaceBytes Tests.abc .out).wf = true ∧
    (spaceBytes Tests.abc .data).wf = true ∧ (spaceBytes Tests.abc .key).wf = true :=
  ⟨rfl, rfl, by decide, by decide, by decide, by decide, by decide, by decide⟩

/-- An idle state; a command that stores, below and above its bytes; and one that stores nothing. -/
theorem witness_OutReadReturnsTheByte :
    ({ Tests.idle with host := [.peek 39] } : State).host = .peek 39 :: [] ∧ 39 < Tests.idle.platform.outCap ∧
    Tests.idle.busy = false ∧ Tests.keyHashing.busy = true ∧ 31 < outInFlight Tests.keyHashing ∧
    min Tests.keyHashing.latch.OLEN.toNat 32 ≤ 32 ∧
    (∀ i, Tests.loading.seq.op = some i → i = .loadIv ∨ i = .compress ∨ i = .process) :=
  ⟨rfl, by decide, rfl, rfl, by decide, by decide, fun _ h => .inl (Option.some.inj h).symm⟩

theorem witness_RacedByteIsOldOrNew :
    Tests.loading.busy = true ∧ Space.data ≠ .out ∧ Space.key ≠ .out ∧
    ({ Tests.loading with host := [.poke .data 255 1] } : State).host = .poke .data 255 1 :: [] ∧
    255 < capacity Tests.loading.platform .data ∧ 255 < capacity Tests.loading.platform .key :=
  ⟨rfl, by decide, by decide, rfl, by decide, by decide⟩

theorem witness_OnlyTheHostWritesDataAndKey :
    step { Tests.abc with host := [.engine] } = .next Tests.abc ∧
    ∀ sp a b rest, ({ Tests.abc with host := [.engine] } : State).host ≠ .poke sp a b :: rest := by
  refine ⟨rfl, fun _ _ _ _ h => ?_⟩
  injection h with h1 _
  cases h1

/-- A legal state in which `LOAD_IV` is in flight, and the step that completes it. -/
theorem witness_StepKeepsStatesLegal : Legal Tests.loading ∧ step Tests.loading = .next (engineTurn Tests.loading) := by
  refine ⟨⟨⟨by decide, fun h => Bool.noConfusion h, by decide⟩, ?_, by decide, ?_⟩, rfl⟩
  · intro sp
    cases sp <;> exact ⟨rfl, fun _ h => absurd h List.not_mem_nil⟩
  · intro _
    refine ⟨.loadIv, rfl, by decide, rfl, by decide, by decide, rfl, rfl, by decide, ?_⟩
    intro L O h
    cases h

/-- One form of the write leaves `LOAD_IV` in flight, the other completes it. -/
theorem witness_OnlyACommandWriteStartsACommand :
    Tests.idle.busy = false ∧ step { Tests.idle with host := [.start 1] } = .next Tests.loading ∧
    Tests.loading.busy = true ∧ Tests.idle.done = false ∧
    step { Tests.idle with host := [.write 0 1] } = .next (runLoadIv (accept .loadIv Tests.idle)) ∧
    (runLoadIv (accept .loadIv Tests.idle)).done = true := ⟨rfl, rfl, rfl, rfl, rfl, rfl⟩

/-- `LOAD_IV` and a multi-block `HMAC` with a hashed key are accepted. -/
theorem witness_AtomicCommandIsTheEngineRun :
    (Tests.idle.busy = false ∧ begin .loadIv Tests.idle = .next (accept .loadIv Tests.idle) ∧
      (accept .loadIv Tests.idle).busy = true ∧ 0 < engineSteps .loadIv (accept .loadIv Tests.idle).latch) ∧
    (let s := { Tests.idle with keyLen := 100, dataLen := 120, outLen := 32 }
     s.busy = false ∧ begin .hmac s = .next (accept .hmac s) ∧ (accept .hmac s).busy = true) :=
  ⟨⟨rfl, rfl, rfl, by decide⟩, rfl, rfl, rfl⟩

/-- `LOAD_IV` at its one position, and `HMAC` in the middle of hashing its key. -/
theorem witness_EveryAcceptedCommandCompletes :
    (Legal Tests.loading ∧ Tests.loading.busy = true) ∧ (Legal Tests.keyHashing ∧ Tests.keyHashing.busy = true) := by
  refine ⟨⟨witness_StepKeepsStatesLegal.1, rfl⟩, ⟨⟨by decide, fun h => Bool.noConfusion h, by decide⟩, ?_, by decide, ?_⟩,
    rfl⟩
  · intro sp
    cases sp <;> exact ⟨rfl, fun _ h => absurd h List.not_mem_nil⟩
  · intro _
    refine ⟨.hmac, rfl, by decide, (by decide : 5 < 64), fun _ => rfl, fun h => Instr.noConfusion h, by decide,
      by decide, fun _ => by decide, ?_⟩
    intro L O h
    obtain ⟨rfl, rfl⟩ : (65, 0) = (L, O) := Option.some.inj h
    exact ⟨rfl, rfl, rfl, by decide, fun _ => by decide⟩

/-- A host that starts a command, waits for it, and then reads and writes. -/
theorem witness_CarefulHostNeverFaultsBusy :
    let s := { Tests.idle with host := [.start 1, .read 1, .wait, .read 16, .write 4 1] }
    keepsHazards s.busy s.host = true ∧ ∃ t, step s = .next t := ⟨rfl, _, rfl⟩

end Sys2Proof.Machine
end

section
/-! PROOFS. Two-run agreement (R8): a padder run and the key block see their source only below the stated length (R36), and
the states `HASH` and `HMAC` complete in are functions of what they latch and read. -/

namespace Sys2Proof.Machine

/-! ## The functions of the padder and of HMAC see their sources only below the stated lengths -/

section Congruence

variable {src src' : Nat → Byte} {L : Nat}

theorem paddedBlock_congr (O i : Nat) (h : ∀ g, g < L → src g = src' g) :
    paddedBlock src L O i = paddedBlock src' L O i := by
  ext j hj : 1
  simpa using paddedByte_congr src src' L O i j h

theorem padRunFrom_congr (O n i : Nat) (S : Hash) (h : ∀ g, g < L → src g = src' g) :
    padRunFrom src L O n i S = padRunFrom src' L O n i S := by
  induction n generalizing i S with
  | zero => rfl
  | succ n ih => rw [padRunFrom, padRunFrom, paddedBlock_congr O i h, ih]

theorem PS_congr (S : Hash) (O : Nat) (h : ∀ g, g < L → src g = src' g) : PS S src L O = PS S src' L O :=
  padRunFrom_congr O (nblocks L) 0 S h

theorem keyBlockCopied_congr (h : ∀ g, g < L → src g = src' g) : keyBlockCopied src L = keyBlockCopied src' L := by
  ext j hj : 1
  simp only [keyBlockCopied, Vector.getElem_ofFn]
  split
  · exact h j ‹_›
  · rfl

/-- Neither branch of `KEY_BLOCK` (R100) reads the key at or above its length. -/
theorem keyBlock_congr (h : ∀ g, g < L → src g = src' g) : keyBlock src L = keyBlock src' L := by
  unfold keyBlock
  rw [PS_congr IV 0 h, keyBlockCopied_congr h]

theorem innerPass_congr (KB : Block) (h : ∀ g, g < L → src g = src' g) : innerPass KB src L = innerPass KB src' L :=
  PS_congr _ 64 h

end Congruence

/-! ## The states `HASH` and `HMAC` complete in -/

/-- `HASH` runs when its checks pass (R87, R38, R93). -/
theorem exec_hash_accepted (s : State) (hi : isIdle s = true) (hl : s.dataLen.toNat ≤ 2 ^ 61 - 1)
    (hd : s.dataLen.toNat ≤ s.platform.dataCap) (ho : s.outLen.toNat ≤ s.platform.outCap) :
    exec .hash s = .next (runHash (accept .hash s)) :=
  issue_accepted .hash runHash s hi ((lengthOk_hash s).2 hl) ((rangeOk_hash s).2 ⟨hd, ho⟩)

/-- `HMAC` runs when its checks pass (R87, R38, R104). -/
theorem exec_hmac_accepted (s : State) (hi : isIdle s = true) (hl : s.dataLen.toNat + 64 ≤ 2 ^ 61 - 1)
    (hkl : s.keyLen.toNat ≤ 2 ^ 61 - 1) (hd : s.dataLen.toNat ≤ s.platform.dataCap)
    (hk : s.keyLen.toNat ≤ s.platform.keyCap) (ho : s.outLen.toNat ≤ s.platform.outCap) :
    exec .hmac s = .next (runHmac (accept .hmac s)) :=
  issue_accepted .hmac runHmac s hi ((lengthOk_hmac s).2 ⟨hl, hkl⟩) ((rangeOk_hmac s).2 ⟨⟨hd, hk⟩, ho⟩)

theorem runHash_accept_H (s : State) :
    (runHash (accept .hash s)).H = PS IV s.data.read s.dataLen.toNat 0 := by
  simp [runHash, accept_hash_latch, spaceBytes]

theorem runHash_accept_out (s : State) :
    StoredDigest (runHash (accept .hash s)).H s.outLen.toNat s.out (runHash (accept .hash s)).out := by
  simpa [runHash, accept_hash_latch] using storedDigest_writeBytes _ _ _

theorem runHmac_accept_KB (s : State) :
    (runHmac (accept .hmac s)).KB = keyBlock s.key.read s.keyLen.toNat := by
  simp [runHmac, accept_hmac_latch, spaceBytes]

theorem runHmac_accept_IS (s : State) : (runHmac (accept .hmac s)).IS =
    innerPass (keyBlock s.key.read s.keyLen.toNat) s.data.read s.dataLen.toNat := by
  simp [runHmac, accept_hmac_latch, spaceBytes]

/-- The final state of `HMAC` is a function of the key block and the inner state it leaves (R103). -/
theorem runHmac_H (s : State) : (runHmac s).H = outerPass (runHmac s).KB (runHmac s).IS := rfl

theorem runHmac_accept_out (s : State) :
    StoredDigest (runHmac (accept .hmac s)).H s.outLen.toNat s.out (runHmac (accept .hmac s)).out := by
  simpa [runHmac, accept_hmac_latch] using storedDigest_writeBytes _ _ _

/-- Two stores of one digest agree on every byte they write, whatever OUT held before (R37). -/
theorem StoredDigest.read_eq {S S' : Hash} {olen olen' a : Nat} {m m' t t' : Memory} (h : StoredDigest S olen m t)
    (h' : StoredDigest S' olen' m' t') (hS : S = S') (hlen : olen = olen') (hw : m.wf = true) (hw' : m'.wf = true)
    (ha : a < min olen 32) : t.read a = t'.read a := by
  subst hS hlen
  obtain ⟨hread, -⟩ := h
  obtain ⟨hread', -⟩ := h'
  exact (hread hw a ha).trans (hread' hw' a ha).symm

/-! ## The statement -/

/-- Settles O33: both runs complete in states that are functions of the latched lengths and of the sources, and those
functions see the sources only below the lengths. -/
theorem hashAndHmacIgnoreLeftovers : Obligations.HashAndHmacIgnoreLeftovers := by
  intro s s' hi hi' hdl hol hp hdata hw hw' hl hd ho
  have holn : s.outLen.toNat = s'.outLen.toNat := congrArg _ hol
  have hd' : s'.dataLen.toNat ≤ s'.platform.dataCap := hdl ▸ hp ▸ hd
  have ho' : s'.outLen.toNat ≤ s'.platform.outCap := hol ▸ hp ▸ ho
  constructor
  · refine ⟨_, _, exec_hash_accepted s hi hl hd ho, exec_hash_accepted s' hi' (hdl ▸ hl) hd' ho', ?_⟩
    have hH : (runHash (accept .hash s)).H = (runHash (accept .hash s')).H := by
      rw [runHash_accept_H, runHash_accept_H, ← hdl, PS_congr IV 0 hdata]
    exact ⟨hH, fun a => (runHash_accept_out s).read_eq (runHash_accept_out s') hH holn hw hw'⟩
  · intro hkl hkey hl64 hkl61 hk
    refine ⟨_, _, exec_hmac_accepted s hi hl64 hkl61 hd hk ho,
      exec_hmac_accepted s' hi' (hdl ▸ hl64) (hkl ▸ hkl61) hd' (hkl ▸ hp ▸ hk) ho', ?_⟩
    have hKB : (runHmac (accept .hmac s)).KB = (runHmac (accept .hmac s')).KB := by
      rw [runHmac_accept_KB, runHmac_accept_KB, ← hkl, keyBlock_congr hkey]
    have hIS : (runHmac (accept .hmac s)).IS = (runHmac (accept .hmac s')).IS := by
      rw [runHmac_accept_IS, runHmac_accept_IS, ← hkl, ← hdl, keyBlock_congr hkey, innerPass_congr _ hdata]
    have hH : (runHmac (accept .hmac s)).H = (runHmac (accept .hmac s')).H := by
      rw [runHmac_H, runHmac_H, hKB, hIS]
    exact ⟨hH, hKB, hIS, fun a => (runHmac_accept_out s).read_eq (runHmac_accept_out s') hH holn hw hw'⟩

end Sys2Proof.Machine
end

section
/-! PROOFS. The block view (R12), the status words (R21, R22), the register map and the accesses to it (R23), what
the host's moves can leave, and what the host cannot read (R26). -/

namespace Sys2Proof.Machine

/-! ## The block view (R12) -/

/-- Byte `m` of a big-endian word is its `m`-th byte (R68). -/
theorem byteOfWord_be32 (b0 b1 b2 b3 : Byte) (m : Nat) (hm : m < 4) :
    byteOfWord (be32 b0 b1 b2 b3) m = #v[b0, b1, b2, b3][m] := by
  have skip (v w s : Nat) (x : BitVec v) (y : BitVec w) (h : w ≤ s) :
      (x ++ y).extractLsb' s 8 = x.extractLsb' (s - w) 8 := BitVec.extractLsb'_append_eq_of_le h
  match m, hm with
  | 0, _ =>
    exact (skip 24 8 24 (b0 ++ b1 ++ b2) b3 (by decide)).trans
      ((skip 16 8 16 (b0 ++ b1) b2 (by decide)).trans BitVec.extractLsb'_append_eq_left)
  | 1, _ =>
    exact (skip 24 8 16 (b0 ++ b1 ++ b2) b3 (by decide)).trans
      ((skip 16 8 8 (b0 ++ b1) b2 (by decide)).trans BitVec.extractLsb'_append_eq_right)
  | 2, _ => exact (skip 24 8 8 (b0 ++ b1 ++ b2) b3 (by decide)).trans BitVec.extractLsb'_append_eq_right
  | 3, _ => exact BitVec.extractLsb'_append_eq_right

/-- Byte `m` of word `i` of a loaded block is byte `4 i + m` of the block (R12). -/
theorem byteOfWord_loadBlock (B : Block) (w : Schedule) (i m : Nat) (hi : i < 16) (hm : m < 4) :
    byteOfWord (loadBlock B w)[i] m = B[4 * i + m] := by
  rw [loadBlock_block B w i hi, byteOfWord_be32 _ _ _ _ m hm]
  match m, hm with
  | 0, _ | 1, _ | 2, _ | 3, _ => rfl

/-- Settles O13: byte `j` of the block is byte `j mod 4` of word `j div 4`. -/
theorem blockViewOfTheSchedule : Obligations.BlockViewOfTheSchedule := by
  refine fun B w => ⟨fun j h => ?_, fun i h => loadBlock_block B w i h, fun t ht h => loadBlock_above B w t ht h⟩
  rw [byteOfWord_loadBlock B w (j / 4) (j % 4) (by omega) (by omega)]
  congr 1
  omega

/-! ## The status words (R21, R22) -/

theorem statusWord_bits (s : State) : (statusWord s).getLsbD 0 = s.busy ∧ (statusWord s).getLsbD 1 = s.done ∧
    (statusWord s).getLsbD 2 = s.fault ∧ (statusWord s).toNat < 2 ^ 3 := by
  unfold statusWord
  generalize s.busy = b, s.done = d, s.fault = f
  revert b d f
  decide

theorem causeWord_toNat (s : State) : (causeWord s).toNat = s.cause.toNat := by
  unfold causeWord
  generalize s.cause = c
  revert c
  decide

theorem causeCode_range (c : Cause) : 1 ≤ (causeCode c).toNat ∧ (causeCode c).toNat ≤ 5 := by
  cases c <;> decide

/-- A word below `2^3` has no bit above bit 2. -/
theorem getLsbD_eq_false_of_lt_eight {v : Word} (hv : v.toNat < 2 ^ 3) (k : Nat) (hk : 3 ≤ k) : v.getLsbD k = false :=
  Nat.testBit_lt_two_pow (Nat.lt_of_lt_of_le hv (Nat.pow_le_pow_right (by decide) hk))

/-- At most one status bit is set in a legal status (R21). -/
theorem statusWord_of_statusLegal {s : State} (h : StatusLegal s) :
    statusWord s = 0 ∨ statusWord s = 1 ∨ statusWord s = 2 ∨ statusWord s = 4 := by
  obtain ⟨hbusy, hfault, -⟩ := h
  have hf : s.fault = true → s.busy = false ∧ s.done = false := fun h => by
    obtain ⟨hb, hd, -⟩ := hfault h
    exact ⟨hb, hd⟩
  unfold statusWord
  generalize s.busy = b, s.done = d, s.fault = f at hbusy hf ⊢
  revert b d f
  decide

/-- Settles O44: the words are put together from the bits, and a legal status has at most one of them set. -/
theorem statusBits : Obligations.StatusBits := by
  refine ⟨fun s => ?_, fun s h => ⟨statusWord_of_statusLegal h, ?_, ?_⟩⟩
  · obtain ⟨hb, hd, hf, hlt⟩ := statusWord_bits s
    have hc : (causeWord s).toNat < 2 ^ 3 := causeWord_toNat s ▸ s.cause.isLt
    exact ⟨hb, hd, hf, getLsbD_eq_false_of_lt_eight hlt, BitVec.extractLsb'_append_eq_right,
      getLsbD_eq_false_of_lt_eight hc, hd.symm, hf.symm⟩
  · intro hf
    obtain ⟨-, -, hcause⟩ := h
    rw [causeWord, hcause hf]
    rfl
  · intro hf
    obtain ⟨-, hfault, -⟩ := h
    obtain ⟨-, -, c, hc⟩ := hfault hf
    rw [causeWord_toNat, hc]
    exact causeCode_range c

/-! ## The register map (R23) -/

@[simp] theorem regAt_indexOf (r : Reg) : regAt (indexOf r) = some r := by
  cases r with
  | cmd | status | faultCause => rfl
  | operand o h => cases o <;> cases h <;> rfl
  | hash i => revert i; decide
  | sched t => revert t; decide

theorem regAt_eq_none_iff : ∀ n : BitVec 7, regAt n = none ↔
    n.toNat = 3 ∨ (12 ≤ n.toNat ∧ n.toNat ≤ 15) ∨ (24 ≤ n.toNat ∧ n.toNat ≤ 31) ∨ 96 ≤ n.toNat := by
  decide

theorem indexOf_of_regAt {n : BitVec 7} {r : Reg} (h : regAt n = some r) : indexOf r = n := by
  have hall : ∀ n : BitVec 7, ∀ r ∈ regAt n, indexOf r = n := by decide
  exact hall n r h

/-- The indices of the access class RW (R23). -/
theorem exists_isReadWrite {n : BitVec 7}
    (h : (4 ≤ n.toNat ∧ n.toNat ≤ 11) ∨ (16 ≤ n.toNat ∧ n.toNat ≤ 23) ∨ (32 ≤ n.toNat ∧ n.toNat ≤ 95)) :
    ∃ r, regAt n = some r ∧ isReadWrite r = true := by
  cases hr : regAt n with
  | none =>
    rw [regAt_eq_none_iff] at hr
    omega
  | some r =>
    refine ⟨r, rfl, ?_⟩
    obtain rfl := indexOf_of_regAt hr
    cases r with
    | cmd | status | faultCause => exact absurd h (by decide)
    | operand | hash | sched => rfl

/-! ### Bus addresses (92_eei_decisions.md D2) -/

/-- Under an injective binding the address of an index leads back to the index. -/
theorem indexAt_regBinding {p : Config.Platform} (hp : p.bindingOk) (n : BitVec 7) :
    indexAt p (p.regBinding[n.toNat]'n.isLt) = some n := by
  have hfound := indexFrom_found p.regBinding n.toNat n.isLt (fun i hi h => hp i n.toNat hi n.isLt h) 128 0
    (Nat.zero_le _) (by have := n.isLt; omega)
  simp [indexAt, hfound]

theorem indexAt_eq_none {p : Config.Platform} {addr : Nat}
    (h : ∀ (k : Nat) (hk : k < 128), p.regBinding[k] ≠ addr) : indexAt p addr = none := by
  cases hi : indexFrom p.regBinding addr 128 0 with
  | none => simp [indexAt, hi]
  | some j =>
    obtain ⟨hj, he⟩ := indexFrom_some _ _ _ _ _ hi
    exact absurd he (h j hj)

/-- A bus access at the address of an index is bound to the access of that index. -/
theorem boundMove_bus {p : Config.Platform} (hp : p.bindingOk) (n : BitVec 7) (acc : BusAccess) :
    boundMove p (.bus (p.regBinding[n.toNat]'n.isLt) acc) = accessMove n acc := by
  simp only [boundMove, indexAt_regBinding hp n]

theorem boundMove_accessMove (p : Config.Platform) (n : BitVec 7) (acc : BusAccess) :
    boundMove p (accessMove n acc) = accessMove n acc := by
  cases acc with
  | write v | read => rfl
  | start v =>
    by_cases hn : n = 0 <;> simp only [accessMove, hn, if_true, if_false, boundMove]

theorem step_bus (s : State) (n : BitVec 7) (acc : BusAccess) (rest : List Move) (hp : s.platform.bindingOk) :
    step { s with host := .bus (s.platform.regBinding[n.toNat]'n.isLt) acc :: rest } =
      step { s with host := accessMove n acc :: rest } :=
  step_congr_move s _ _ rest ((boundMove_bus hp n acc).trans (boundMove_accessMove _ n acc).symm)

/-- Settles O48: the map and its inverse by cases on the register, and a bus access through what it is bound to. -/
theorem registerMap : Obligations.RegisterMap := by
  refine ⟨regAt_indexOf, fun n r => indexOf_of_regAt, regAt_eq_none_iff, ?_, ?_⟩
  · rintro s n _ rest hp rfl
    exact ⟨fun v => step_bus s n (.write v) rest hp, step_bus s n .read rest hp,
      fun v => step_bus s n (.start v) rest hp⟩
  · intro s addr acc rest h hs
    have hb : boundMove s.platform (.bus addr acc) = .bus addr acc := by simp only [boundMove, indexAt_eq_none h]
    simp [step, hs, hb, issuedBy, makeMove]

/-! ## Register reads (R23 items 1 to 4) -/

theorem readValue_of_regAt {n : BitVec 7} {r : Reg} (h : regAt n = some r) (s : State) : readValue n s =
    if isReadWrite r && !isIdle s then Config.freeValue 32 s.draws (512 + n.toNat) else regValue r s := by
  simp [readValue, h]

theorem readValue_reserved {n : BitVec 7} (h : regAt n = none) (s : State) : readValue n s = 0 := by
  simp [readValue, h]

/-- A read-only register reads its value in every state. -/
theorem readValue_readOnly (r : Reg) (hr : isReadWrite r = false) (s : State) :
    readValue (indexOf r) s = regValue r s := by
  simp [readValue_of_regAt (regAt_indexOf r), hr]

/-- Every register reads its value in an idle state. -/
theorem readValue_idle (r : Reg) {s : State} (hs : isIdle s = true) : readValue (indexOf r) s = regValue r s := by
  simp [readValue_of_regAt (regAt_indexOf r), hs]

theorem step_read (s : State) (n : BitVec 7) (rest : List Move) (h : s.host = .read n :: rest) :
    step s = .next (readRegister n { s with host := rest }) := by
  simp [step, h, boundMove, issuedBy, makeMove]

/-- Settles O45: each index reads what its register holds, and a read step sets what the host got and nothing else. -/
theorem registerReads : Obligations.RegisterReads := by
  refine ⟨fun s => ?_, fun s n h => readValue_reserved ((regAt_eq_none_iff n).2 h) s, fun s hs => ?_, ?_⟩
  · exact ⟨readValue_readOnly .cmd rfl s, readValue_readOnly .status rfl s, readValue_readOnly .faultCause rfl s⟩
  · exact ⟨readValue_idle (.operand .dataLen .lo) hs, readValue_idle (.operand .dataLen .hi) hs,
      readValue_idle (.operand .keyLen .lo) hs, readValue_idle (.operand .keyLen .hi) hs,
      readValue_idle (.operand .outLen .lo) hs, readValue_idle (.operand .outLen .hi) hs,
      readValue_idle (.operand .offset .lo) hs, readValue_idle (.operand .offset .hi) hs,
      fun i h => readValue_idle (.hash ⟨i, h⟩) hs, fun t h => readValue_idle (.sched ⟨t, h⟩) hs⟩
  · intro s n rest h
    exact ⟨_, step_read s n rest h, rfl, ⟨rfl, rfl, rfl, rfl, rfl, rfl⟩, rfl,
      ⟨rfl, rfl, rfl, rfl, rfl, rfl, rfl, rfl, rfl, rfl⟩, rfl, rfl, rfl, rfl, rfl⟩

/-! ## Register writes (R23 items 5 to 9) -/

/-- Everything a register write that issues no command can do: nothing, fault entry, or the word taken by an RW register
of an idle block (R23, R126). -/
theorem writeRegister_cases (n : BitVec 7) (v : Word) (s : State) :
    (s.fault = true ∧ writeRegister n v s = s) ∨ (∃ c, writeRegister n v s = raise c s) ∨
    (isIdle s = true ∧ ∃ r, regAt n = some r ∧ isReadWrite r = true ∧ writeRegister n v s = setRegister r v s) := by
  unfold writeRegister isIdle
  cases s.fault with
  | true => exact .inl ⟨rfl, rfl⟩
  | false =>
    cases s.busy with
    | true => exact .inr (.inl ⟨_, rfl⟩)
    | false =>
      cases regAt n with
      | none => exact .inr (.inl ⟨_, rfl⟩)
      | some r =>
        cases r with
        | cmd | status | faultCause => exact .inr (.inl ⟨_, rfl⟩)
        | operand | hash | sched => exact .inr (.inr ⟨rfl, _, rfl, rfl, rfl⟩)

/-! `setRegister` leaves everything but the registers alone. -/

@[simp] theorem setRegister_V (r : Reg) (v : Word) (s : State) : (setRegister r v s).V = s.V := by
  cases r <;> simp [setRegister]
@[simp] theorem setRegister_KB (r : Reg) (v : Word) (s : State) : (setRegister r v s).KB = s.KB := by
  cases r <;> simp [setRegister]
@[simp] theorem setRegister_IS (r : Reg) (v : Word) (s : State) : (setRegister r v s).IS = s.IS := by
  cases r <;> simp [setRegister]
@[simp] theorem setRegister_latch (r : Reg) (v : Word) (s : State) : (setRegister r v s).latch = s.latch := by
  cases r <;> simp [setRegister]
@[simp] theorem setRegister_seq (r : Reg) (v : Word) (s : State) : (setRegister r v s).seq = s.seq := by
  cases r <;> simp [setRegister]
@[simp] theorem setRegister_busy (r : Reg) (v : Word) (s : State) : (setRegister r v s).busy = s.busy := by
  cases r <;> simp [setRegister]
@[simp] theorem setRegister_done (r : Reg) (v : Word) (s : State) : (setRegister r v s).done = s.done := by
  cases r <;> simp [setRegister]
@[simp] theorem setRegister_fault (r : Reg) (v : Word) (s : State) : (setRegister r v s).fault = s.fault := by
  cases r <;> simp [setRegister]
@[simp] theorem setRegister_cause (r : Reg) (v : Word) (s : State) : (setRegister r v s).cause = s.cause := by
  cases r <;> simp [setRegister]
@[simp] theorem setRegister_data (r : Reg) (v : Word) (s : State) : (setRegister r v s).data = s.data := by
  cases r <;> simp [setRegister]
@[simp] theorem setRegister_key (r : Reg) (v : Word) (s : State) : (setRegister r v s).key = s.key := by
  cases r <;> simp [setRegister]
@[simp] theorem setRegister_out (r : Reg) (v : Word) (s : State) : (setRegister r v s).out = s.out := by
  cases r <;> simp [setRegister]
@[simp] theorem setRegister_platform (r : Reg) (v : Word) (s : State) : (setRegister r v s).platform = s.platform := by
  cases r <;> simp [setRegister]
@[simp] theorem setRegister_host (r : Reg) (v : Word) (s : State) : (setRegister r v s).host = s.host := by
  cases r <;> simp [setRegister]

theorem halfOf_withHalf_same (v : Size) (h : Half) (w : Word) : halfOf (withHalf v h w) h = w :=
  match h with
  | .lo => BitVec.extractLsb'_append_eq_right
  | .hi => BitVec.extractLsb'_append_eq_left

theorem halfOf_withHalf_other (v : Size) {h h' : Half} (hne : h' ≠ h) (w : Word) :
    halfOf (withHalf v h w) h' = halfOf v h' :=
  match h, h', hne with
  | .lo, .hi, _ => BitVec.extractLsb'_append_eq_left
  | .hi, .lo, _ => BitVec.extractLsb'_append_eq_right

@[simp] theorem operandValue_setOperand_same (o : Operand) (v : Size) (s : State) :
    operandValue (setOperand o v s) o = v := by
  cases o <;> rfl

theorem operandValue_setOperand_other {o o' : Operand} (h : o' ≠ o) (v : Size) (s : State) :
    operandValue (setOperand o v s) o' = operandValue s o' := by
  cases o <;> cases o' <;> simp [operandValue, setOperand] at h ⊢

theorem regValue_setRegister_same {r : Reg} (hr : isReadWrite r = true) (v : Word) (s : State) :
    regValue r (setRegister r v s) = v := by
  cases r with
  | cmd | status | faultCause => exact absurd hr (by decide)
  | operand o h => simp [regValue, setRegister, halfOf_withHalf_same]
  | hash i => simp [regValue, setRegister]
  | sched t => simp [regValue, setRegister]

theorem regValue_setRegister_other {r r' : Reg} (hne : r' ≠ r) (v : Word) (s : State) :
    regValue r' (setRegister r v s) = regValue r' s := by
  cases r' with
  | cmd => rfl
  | status => simp [regValue, statusWord]
  | faultCause => simp [regValue, causeWord]
  | operand o' h' =>
    cases r with
    | operand o h =>
      by_cases ho : o' = o
      · subst ho
        have hh : h' ≠ h := fun he => hne (he ▸ rfl)
        simp [regValue, setRegister, halfOf_withHalf_other _ hh]
      · simp [regValue, setRegister, operandValue_setOperand_other ho]
    | cmd | status | faultCause | hash | sched => cases o' <;> rfl
  | hash i' =>
    cases r with
    | hash i =>
      have hi : i.val ≠ i'.val := fun he => hne (congrArg Reg.hash (Fin.ext he.symm))
      simp [regValue, setRegister, Vector.getElem_set_ne _ _ hi]
    | operand => simp [regValue, setRegister]
    | cmd | status | faultCause | sched => rfl
  | sched t' =>
    cases r with
    | sched t =>
      have ht : t.val ≠ t'.val := fun he => hne (congrArg Reg.sched (Fin.ext he.symm))
      simp [regValue, setRegister, Vector.getElem_set_ne _ _ ht]
    | operand => simp [regValue, setRegister]
    | cmd | status | faultCause | hash => rfl

@[simp] theorem isIdle_setRegister (r : Reg) (v : Word) (s : State) : isIdle (setRegister r v s) = isIdle s := by
  simp [isIdle]

/-- In an idle state a write of one register is not seen at the index of another. -/
theorem readValue_setRegister_other {n m : BitVec 7} {r : Reg} (hr : regAt n = some r) (hm : m ≠ n) (v : Word)
    {s : State} (hs : isIdle s = true) : readValue m (setRegister r v s) = readValue m s := by
  cases hr' : regAt m with
  | none => rw [readValue_reserved hr', readValue_reserved hr']
  | some r' =>
    have hne : r' ≠ r := by
      rintro rfl
      exact hm ((indexOf_of_regAt hr').symm.trans (indexOf_of_regAt hr))
    simp [readValue_of_regAt hr', hs, regValue_setRegister_other hne]

theorem writeRegister_readWrite {n : BitVec 7} {r : Reg} (hr : regAt n = some r) (hrw : isReadWrite r = true)
    (v : Word) {s : State} (hs : isIdle s = true) : writeRegister n v s = setRegister r v s := by
  simp only [isIdle, Bool.and_eq_true, Bool.not_eq_true'] at hs
  obtain ⟨hb, hf⟩ := hs
  cases r with
  | cmd | status | faultCause => exact absurd hrw (by decide)
  | operand | hash | sched => simp [writeRegister, hb, hf, hr]

/-- A write to an index other than that of `CMD` issues no command (R20). -/
theorem step_write {s : State} {n : BitVec 7} {v : Word} {rest : List Move} (h : s.host = .write n v :: rest)
    (hn : n ≠ 0) : step s = .next (writeRegister n v { s with host := rest }) := by
  have hc : commandOf n v = none := if_neg hn
  simp [step, h, boundMove, hc, makeMove]

/-- Settles O46: the step sets the register at the index, which changes no other register and nothing hidden. -/
theorem registerWriteTakesTheWord : Obligations.RegisterWriteTakesTheWord := by
  intro s n v rest hs hh hn
  obtain ⟨r, hr, hrw⟩ := exists_isReadWrite hn
  have hn0 : n ≠ 0 := by
    rintro rfl
    exact absurd hn (by decide)
  have hidle : isIdle { s with host := rest } = true := hs
  have hread : ∀ m, readValue m { s with host := rest } = readValue m s := fun _ => rfl
  refine ⟨setRegister r v { s with host := rest }, ?_, ?_, fun m hm => ?_, ?_⟩
  · rw [step_write hh hn0, writeRegister_readWrite hr hrw v hidle]
  · rw [readValue_of_regAt hr]
    simp [hidle, regValue_setRegister_same hrw]
  · rw [readValue_setRegister_other hr hm v hidle, hread]
  · simp

/-! ## What the host's moves can leave -/

/-- Every state the issue sequence can answer: the state itself, fault entry, or what follows acceptance (R45, R126). -/
theorem issue_next {i : Instr} {run : State → State} {s t : State} (ht : issue i run s = .next t) :
    t = s ∨ (∃ c, t = raise c s) ∨ (isIdle s = true ∧ lengthOk i (latchOperands i s) = true ∧
      rangeOk i s.platform (latchOperands i s) = true ∧ t = run (accept i s)) := by
  rcases issue_cases i run s with ⟨-, he⟩ | ⟨-, -, he⟩ | ⟨-, -, he⟩ | ⟨-, -, -, he⟩ | ⟨hidle, hl, hr, he⟩ <;>
    obtain rfl := Host.Outcome.next.inj (he.symm.trans ht)
  · exact .inl rfl
  · exact .inr (.inl ⟨_, rfl⟩)
  · exact .inr (.inl ⟨_, rfl⟩)
  · exact .inr (.inl ⟨_, rfl⟩)
  · exact .inr (.inr ⟨hidle, hl, hr, rfl⟩)

/-- The CMD write that stops at acceptance: a legal word begins its command, any other is a register write (R45,
R48). -/
theorem startCommand_cases (v : Word) (s : State) :
    (∃ i, decode v = .ok i ∧ startCommand v s = begin i s) ∨ startCommand v s = .next (writeRegister 0 v s) := by
  unfold startCommand
  cases hi : commandOf 0 v with
  | none => exact .inr rfl
  | some i =>
    obtain ⟨_, hv, hd⟩ := issuedBy_some (.write 0 v) i hi
    cases hv
    exact .inl ⟨i, hd, rfl⟩

/-- A host write reaches a byte that exists, and races with the engine while a command is in flight (R30, R145). -/
theorem pokeByte_next {sp : Space} {a : Nat} {b : Byte} {s t : State} (ht : pokeByte sp a b s = .next t) :
    a < capacity s.platform sp ∧
      ((s.busy = false ∧ t = writeByte sp a b s) ∨ (s.busy = true ∧ t = raceByte sp a b s)) := by
  unfold pokeByte at ht
  split at ht
  · cases ht
  · refine ⟨by omega, ?_⟩
    split at ht
    · cases sp with
      | data | key => exact .inr ⟨‹_›, (Host.Outcome.next.inj ht).symm⟩
      | out => cases ht
    · exact .inl ⟨by simpa using ‹¬ s.busy = true›, (Host.Outcome.next.inj ht).symm⟩

/-- A host read of OUT changes the host's side alone (R30). -/
theorem peekByte_next {a : Nat} {s t : State} (ht : peekByte a s = .next t) :
    t = { s with byteRead := peekValue a s, draws := s.draws + 1 } := by
  unfold peekByte at ht
  split at ht
  · cases ht
  · exact (Host.Outcome.next.inj ht).symm

/-- One poll of `WAIT`: a turn of the engine, the last read of `STATUS`, or nothing (R50). -/
theorem waitPoll_cases (s : State) :
    (s.busy = true ∧ waitPoll s = engineTurn { s with host := .wait :: s.host }) ∨
    (s.busy = false ∧ waitPoll s = readRegister 1 s) ∨
    (s.busy = false ∧ waitPoll s = { s with host := .wait :: s.host }) := by
  unfold waitPoll
  cases hb : s.busy with
  | true => exact .inl ⟨rfl, rfl⟩
  | false =>
    cases s.done || s.fault with
    | true => exact .inr (.inl ⟨rfl, rfl⟩)
    | false => exact .inr (.inr ⟨rfl, by simp⟩)

/-! ## What the host cannot read (R26, R131) -/

/-- Settles O49: a register read and an OUT read are made of the readable elements and of what a command in flight
stores. -/
theorem hiddenStateIsUnreadable : Obligations.HiddenStateIsUnreadable := by
  intro s s' hH hW hdl hkl hol hof hb hd hf hc hout hdraws
  constructor
  · intro n
    cases hr : regAt n with
    | none => rw [readValue_reserved hr, readValue_reserved hr]
    | some r =>
      have hidle : isIdle s = isIdle s' := by rw [isIdle, isIdle, hb, hf]
      have hvalue : regValue r s = regValue r s' := by
        cases r with
        | cmd => rfl
        | status => simp only [regValue, statusWord, hb, hd, hf]
        | faultCause => simp only [regValue, causeWord, hc]
        | operand o h => cases o <;> simp only [regValue, operandValue, hdl, hkl, hol, hof]
        | hash i => simp only [regValue, hH]
        | sched t => simp only [regValue, hW]
      rw [readValue_of_regAt hr, readValue_of_regAt hr, hidle, hvalue, hdraws]
  · intro a hflight
    cases hbusy : s.busy with
    | false =>
      have h0 := outInFlight_idle s hbusy
      have h0' := outInFlight_idle s' (hb ▸ hbusy)
      simp [peekValue, h0, h0', hout]
    | true =>
      obtain ⟨hn, hnew⟩ := hflight hbusy
      rw [peekValue, peekValue, hn, hnew, hout, hdraws]

end Sys2Proof.Machine
end

section
/-! PROOFS. Every step keeps states legal: a legal state is at rest or has a command in flight, the engine takes a legal
position to a legal position or to completion, and every other step ends at rest or leaves the position alone. -/

namespace Sys2Proof.Machine

/-! ## Operations on the buffer spaces keep them legal -/

@[simp] theorem spaceBytes_writeByte_same (sp : Space) (a : Nat) (b : Byte) (s : State) :
    spaceBytes (writeByte sp a b s) sp = (spaceBytes s sp).write a b := by
  cases sp <;> rfl

theorem spaceBytes_writeByte_other {sp sp' : Space} (h : sp' ≠ sp) (a : Nat) (b : Byte) (s : State) :
    spaceBytes (writeByte sp a b s) sp' = spaceBytes s sp' := by
  cases sp <;> cases sp' <;> simp [spaceBytes, writeByte] at h ⊢

theorem MemoryLegal.of_same {s t : State} (hm : MemoryLegal s) (hdata : t.data = s.data) (hkey : t.key = s.key)
    (hout : t.out = s.out) (hplatform : t.platform = s.platform) : MemoryLegal t := by
  intro sp
  have hsp : spaceBytes t sp = spaceBytes s sp := by cases sp <;> assumption
  rw [hsp, hplatform]
  exact hm sp

theorem MemoryLegal.writeByte {s : State} (hm : MemoryLegal s) {sp : Space} {a : Nat} (b : Byte)
    (ha : a < capacity s.platform sp) : MemoryLegal (writeByte sp a b s) := by
  intro sp'
  rw [writeByte_platform]
  by_cases h : sp' = sp
  · subst h
    obtain ⟨hwf, hbelow⟩ := hm sp'
    rw [spaceBytes_writeByte_same]
    exact ⟨Memory.wf_write _ a b hwf, Memory.below_write _ a _ b ha hbelow⟩
  · rw [spaceBytes_writeByte_other h]
    exact hm sp'

theorem MemoryLegal.storeOut {s : State} (hm : MemoryLegal s) {bytes : List Byte}
    (hlen : bytes.length ≤ s.platform.outCap) : MemoryLegal (storeOut bytes s)
  | .data => hm .data
  | .key => hm .key
  | .out => by
    obtain ⟨hwf, hbelow⟩ := hm .out
    exact ⟨Memory.wf_writeBytes bytes _ 0 hwf,
      Memory.below_writeBytes bytes _ 0 _ (by simpa [capacity] using hlen) hbelow⟩

/-- The range check of a command that stores covers every byte of OUT it can write (R38). -/
theorem rangeOk_outLen {i : Instr} {p : Config.Platform} {l : Latches} (hi : storesDigest i = true)
    (h : rangeOk i p l = true) : l.OLEN.toNat ≤ p.outCap := by
  cases i with
  | loadIv | compress | process => exact absurd hi (by decide)
  | storeDigest | hash | hmac =>
    simp only [rangeOk, Bool.and_eq_true, decide_eq_true_eq] at h
    omega

/-! ## Legal positions, as facts about `SEQ` and the latches alone -/

/-- The latches of a padder run over `L` bytes with offset `O`, at engine step `st` (R83). -/
structure RunOk (L O : Nat) (st : EngineStep) (l : Latches) : Prop where
  length : l.L.toNat = L
  offset : l.O.toNat = O
  blocks : l.N.toNat = nblocks L
  index : l.I.toNat ≤ nblocks L
  pending : st ≠ .fill → l.I.toNat < nblocks L

/-- `SEQ` and the latches of a command `i` in flight: `PositionLegal` with its parts named. -/
structure PositionOk (i : Instr) (p : Config.Platform) (q : Seq) (l : Latches) : Prop where
  op : q.op = some i
  phase : q.phase ∈ phasesOf i
  counter : stepBounded q.step q.t
  compresses : q.step ≠ .fill → phaseCompresses q.phase = true
  notFilled : i = .compress → q.step ≠ .fill
  length : lengthOk i l = true
  range : rangeOk i p l = true
  longKey : q.phase = .keyHash → keyBlockBytes < l.KLEN.toNat
  run : ∀ L O, runOf i q.phase l = some (L, O) → RunOk L O q.step l

theorem positionOk_iff (i : Instr) (s : State) :
    PositionOk i s.platform s.seq s.latch ↔ s.seq.op = some i ∧ PositionLegal i s := by
  constructor
  · intro h
    refine ⟨h.op, h.phase, h.counter, h.compresses, h.notFilled, h.length, h.range, h.longKey, fun L O hr => ?_⟩
    obtain ⟨hL, hO, hN, hI, hpending⟩ := h.run L O hr
    exact ⟨hL, hO, hN, hI, hpending⟩
  · rintro ⟨hop, hphase, hcounter, hcompresses, hfill, hlen, hrange, hlong, hrun⟩
    refine ⟨hop, hphase, hcounter, hcompresses, hfill, hlen, hrange, hlong, fun L O hr => ?_⟩
    obtain ⟨hL, hO, hN, hI, hpending⟩ := hrun L O hr
    exact ⟨hL, hO, hN, hI, hpending⟩

/-- The block count of a length that passed its check fits `N` (90_conflicts.md C11). -/
theorem nblocks_lt_of_le_maxTotal {L : Nat} (h : L ≤ maxTotal) : nblocks L < 2 ^ 56 := by
  unfold nblocks
  unfold maxTotal at h
  omega

/-- A padder run starts with its latches set up (R83). -/
theorem runOk_beginRun {L O : Nat} (hL : L ≤ maxTotal) (hO : O ≤ maxTotal) (l : Latches) :
    RunOk L O .fill (beginRun L O l) where
  length := by
    unfold maxTotal at hL
    exact Nat.mod_eq_of_lt (by omega)
  offset := by
    unfold maxTotal at hO
    exact Nat.mod_eq_of_lt (by omega)
  blocks := Nat.mod_eq_of_lt (nblocks_lt_of_le_maxTotal hL)
  index := Nat.zero_le _
  pending h := absurd rfl h

section Position

variable {i : Instr} {p : Config.Platform} {q : Seq} {l : Latches}

/-- A phase is entered at `FILL`, with the latches of its padder run set up if it has one (R105). -/
theorem PositionOk.enter {op : Option Instr} (hop : op = some i) {ph : Phase} (hph : ph ∈ phasesOf i)
    (hi : i ≠ .compress) (hlen : lengthOk i l = true) (hrange : rangeOk i p l = true)
    (hlong : ph = .keyHash → keyBlockBytes < l.KLEN.toNat)
    (hrun : ∀ L O, runOf i ph l = some (L, O) → RunOk L O .fill l) : PositionOk i p ⟨op, ph, .fill, 0⟩ l where
  op := hop
  phase := hph
  counter := rfl
  compresses h := absurd rfl h
  notFilled h := absurd h hi
  length := hlen
  range := hrange
  longKey := hlong
  run := hrun

/-- Within a block the sequencer moves over `EXPAND`, `INIT`, `ROUND` and `FEED` (R70 to R73). -/
theorem PositionOk.withinBlock (h : PositionOk i p q l) (hq : q.step ≠ .fill) {st : EngineStep} {t : Nat}
    (hst : st ≠ .fill) (ht : stepBounded st t) : PositionOk i p ⟨q.op, q.phase, st, t⟩ l :=
  { h with
    counter := ht
    compresses := fun _ => h.compresses hq
    notFilled := fun _ => hst
    run := fun L O hr => { h.run L O hr with pending := fun _ => (h.run L O hr).pending hq } }

/-- A block of the run has been filled: the loop's test `I < N` passed (R82, R83). -/
theorem PositionOk.filled (h : PositionOk i p q l) (hq : phaseCompresses q.phase = true) (hI : l.I < l.N) (c : Size) :
    PositionOk i p ⟨q.op, q.phase, .expand, 16⟩ { l with CNT := c } where
  op := h.op
  phase := h.phase
  counter := (by decide : 16 ≤ 16 ∧ 16 < 64)
  compresses _ := hq
  notFilled _ := EngineStep.noConfusion
  length := by have := h.length; cases i <;> exact this
  range := by have := h.range; cases i <;> exact this
  longKey := h.longKey
  run L O hr := by
    have hrun := h.run L O (by rw [← hr]; unfold runOf; rfl)
    exact { hrun with pending := fun _ => hrun.blocks ▸ hI }

/-- `PAD_FILL` fills the one block of a phase without a padder run (R101). -/
theorem PositionOk.padFilled (h : PositionOk i p q l) (hq : phaseCompresses q.phase = true)
    (hrun : runOf i q.phase l = none) : PositionOk i p ⟨q.op, q.phase, .expand, 16⟩ l :=
  { h with
    counter := (by decide : 16 ≤ 16 ∧ 16 < 64)
    compresses := fun _ => hq
    notFilled := fun _ => EngineStep.noConfusion
    run := fun L O hr => by rw [hrun] at hr; cases hr }

/-- After `FEED` the block index goes up by one and stays within the run (R83). -/
theorem PositionOk.nextBlock (h : PositionOk i p q l) (hq : q.step ≠ .fill) (hi : i ≠ .compress) :
    PositionOk i p ⟨q.op, q.phase, .fill, 0⟩ { l with I := l.I + 1 } where
  op := h.op
  phase := h.phase
  counter := rfl
  compresses h := absurd rfl h
  notFilled h := absurd h hi
  length := by have := h.length; cases i <;> exact this
  range := by have := h.range; cases i <;> exact this
  longKey := h.longKey
  run L' O' hr := by
    have hr' : runOf i q.phase l = some (L', O') := by rw [← hr]; unfold runOf; rfl
    obtain ⟨hL, hO, hN, -, hpending⟩ := h.run L' O' hr'
    have hlt := hpending hq
    have hI : (l.I + 1).toNat = l.I.toNat + 1 := by
      have := l.N.isLt
      rw [BitVec.toNat_add]
      exact Nat.mod_eq_of_lt (by simp; omega)
    exact ⟨hL, hO, hN, by rw [hI]; exact hlt, fun h => absurd rfl h⟩

end Position

/-! ## Legal states: at rest, or with a command in flight -/

/-- A legal state with no command in flight. -/
structure AtRest (s : State) : Prop where
  status : StatusLegal s
  memory : MemoryLegal s
  idle : s.busy = false
  seq : s.seq = Seq.rest

/-- A legal state with command `i` in flight. -/
structure InFlight (i : Instr) (s : State) : Prop where
  busy : s.busy = true
  done : s.done = false
  fault : s.fault = false
  cause : s.cause = 0
  memory : MemoryLegal s
  position : PositionOk i s.platform s.seq s.latch

theorem AtRest.legal {s : State} (h : AtRest s) : Legal s :=
  ⟨h.status, h.memory, fun _ => h.seq, fun hb => absurd (h.idle.symm.trans hb) Bool.false_ne_true⟩

theorem InFlight.legal {i : Instr} {s : State} (h : InFlight i s) : Legal s := by
  refine ⟨⟨fun _ => h.done, fun hf => ?_, fun _ => h.cause⟩, h.memory, fun hb => ?_, fun _ => ?_⟩
  · exact absurd (h.fault.symm.trans hf) Bool.false_ne_true
  · exact absurd (hb.symm.trans h.busy) Bool.false_ne_true
  · exact ⟨i, (positionOk_iff i s).1 h.position⟩

theorem Legal.atRest {s : State} (h : Legal s) (hb : s.busy = false) : AtRest s := by
  obtain ⟨hstatus, hmemory, hrest, -⟩ := h
  exact ⟨hstatus, hmemory, hb, hrest hb⟩

theorem Legal.inFlight {s : State} (h : Legal s) (hb : s.busy = true) : ∃ i, InFlight i s := by
  obtain ⟨⟨hdone, hfault, hcause⟩, hmemory, -, hflight⟩ := h
  have hnf : s.fault = false := by
    by_contra hf
    obtain ⟨hnb, -⟩ := hfault (by simpa using hf)
    exact Bool.false_ne_true (hnb.symm.trans hb)
  obtain ⟨i, hposition⟩ := hflight hb
  exact ⟨i, hb, hdone hb, hnf, hcause hnf, hmemory, (positionOk_iff i s).2 hposition⟩

theorem Legal.memory {s : State} (h : Legal s) : MemoryLegal s := by
  obtain ⟨-, hmemory, -⟩ := h
  exact hmemory

/-- What legality says of a state, apart from the buffer bytes, is about these fields (R18, R19, R21, R22). -/
structure SameControl (s t : State) : Prop where
  busy : t.busy = s.busy
  done : t.done = s.done
  fault : t.fault = s.fault
  cause : t.cause = s.cause
  seq : t.seq = s.seq
  latch : t.latch = s.latch
  platform : t.platform = s.platform

theorem Legal.of_sameControl {s t : State} (h : Legal s) (hc : SameControl s t) (hm : MemoryLegal t) : Legal t := by
  obtain ⟨hbusy, hdone, hfault, hcause, hseq, hlatch, hplatform⟩ := hc
  obtain ⟨hstatus, -, hsequencer⟩ := h
  refine ⟨?_, hm, ?_⟩
  · simpa only [StatusLegal, hbusy, hdone, hfault, hcause] using hstatus
  · simpa only [SequencerLegal, PositionLegal, hbusy, hseq, hlatch, hplatform] using hsequencer

/-! ## The engine's turns -/

section Engine

variable {i : Instr} {s : State}

theorem InFlight.goto (h : InFlight i s) {ph : Phase} {st : EngineStep} {t : Nat}
    (hp : PositionOk i s.platform ⟨s.seq.op, ph, st, t⟩ s.latch) : InFlight i (goto ph st t s) :=
  { h with position := hp }

/-- A phase without a padder run is entered at `FILL` (R105). -/
theorem InFlight.gotoPhase (h : InFlight i s) {ph : Phase} (hph : ph ∈ phasesOf i) (hi : i ≠ .compress)
    (hlong : ph ≠ .keyHash) (hrun : runOf i ph s.latch = none) : InFlight i (Machine.goto ph .fill 0 s) := by
  refine h.goto (PositionOk.enter h.position.op hph hi h.position.length h.position.range (fun h => absurd h hlong) ?_)
  intro L O hr
  rw [hrun] at hr
  cases hr

/-- Phases `INNER_DATA` and `OUTER_DATA` start a padder run (R102, R103). -/
theorem InFlight.gotoRun (h : InFlight .hmac s) {ph : Phase} {L O : Nat} (hph : ph ∈ phasesOf .hmac)
    (hlong : ph ≠ .keyHash) (hrun : runOf .hmac ph (beginRun L O s.latch) = some (L, O)) (hL : L ≤ maxTotal)
    (hO : O ≤ maxTotal) : InFlight .hmac (gotoRun ph L O s) := by
  refine { h with
    position := PositionOk.enter h.position.op hph Instr.noConfusion h.position.length h.position.range
      (fun h => absurd h hlong) ?_ }
  intro L' O' hr
  obtain ⟨rfl, rfl⟩ : (L, O) = (L', O') := Option.some.inj (hrun.symm.trans hr)
  exact runOk_beginRun hL hO s.latch

/-- Completion leaves the block at rest (R45). -/
theorem InFlight.finish (h : InFlight i s) (j : Instr) : AtRest (finish j s) where
  status := by simp [StatusLegal, h.fault, h.cause]
  memory := h.memory
  idle := rfl
  seq := rfl

theorem InFlight.finishCurrent (h : InFlight i s) : AtRest (finishCurrent s) := by
  rw [Machine.finishCurrent, h.position.op]
  exact h.finish i

/-- A store stays within OUT, by the range check (R37, R38). -/
theorem InFlight.storeDigest (h : InFlight i s) (hi : storesDigest i = true) : InFlight i (storeDigest s) :=
  { h with
    memory := h.memory.storeOut (by
      have := rangeOk_outLen hi h.position.range
      rw [digestPrefix_length]
      omega) }

theorem InFlight.loadIvAtStart (h : InFlight i s) : InFlight i (loadIvAtStart s) := by
  unfold Machine.loadIvAtStart
  split
  · exact { h with }
  · exact h

@[simp] theorem loadIvAtStart_seq (s : State) : (loadIvAtStart s).seq = s.seq := by
  unfold loadIvAtStart
  split <;> rfl

/-- Only `HMAC` passes through the key and pass phases (R105). -/
theorem hmac_of_phase {ph : Phase} (hph : ph ∈ phasesOf i)
    (h : ph ∈ [.keyHash, .keyBlock, .innerKey, .innerData, .outerKey, .outerData]) : i = .hmac := by
  cases i <;> revert ph <;> decide

/-- Whatever words and count `FILL` writes, the sequencer goes on to `EXPAND` (R82). -/
theorem InFlight.gotoExpand (h : InFlight i s) (hc : phaseCompresses s.seq.phase = true) (hI : s.latch.I < s.latch.N)
    (w : Schedule) (c : Size) :
    InFlight i (Machine.goto s.seq.phase .expand 16 { s with W := w, latch := { s.latch with CNT := c } }) :=
  { h with position := h.position.filled hc hI c }

/-- The loop of a padder run at `FILL` (R83). -/
theorem InFlight.fillOr (h : InFlight i s) (hc : phaseCompresses s.seq.phase = true) (src : Nat → Byte)
    {after : State → State} (hafter : Legal (after s)) : Legal (fillOr src after s) := by
  unfold Machine.fillOr
  split
  · exact (h.gotoExpand hc ‹_› _ _).legal
  · exact hafter

theorem InFlight.padFillStep (h : InFlight i s) (hc : phaseCompresses s.seq.phase = true)
    (hrun : runOf i s.seq.phase s.latch = none) (p : Byte) : InFlight i (padFillStep p s) :=
  { h with position := h.position.padFilled hc hrun }

theorem InFlight.afterMessage (h : InFlight i s) : Legal (afterMessage s) := by
  unfold Machine.afterMessage
  split
  · obtain rfl : i = .hash := Option.some.inj (h.position.op.symm.trans ‹_›)
    exact (h.gotoPhase (by decide) (by decide) (by decide) rfl).legal
  · exact h.finishCurrent.legal

theorem InFlight.fillStep (h : InFlight i s) : Legal (fillStep s) := by
  have hph := h.position.phase
  unfold Machine.fillStep
  cases hp : s.seq.phase with
  | idle => exact (InFlight.finishCurrent (s := { s with H := IV }) { h with }).legal
  | keyHash =>
    obtain rfl := hmac_of_phase (hp ▸ hph) (by decide)
    have h' := h.loadIvAtStart
    exact h'.fillOr (by simp [hp, phaseCompresses]) _ (h'.gotoPhase (by decide) (by decide) (by decide) rfl).legal
  | keyBlock =>
    obtain rfl := hmac_of_phase (hp ▸ hph) (by decide)
    exact (InFlight.gotoPhase (s := { s with KB := _ }) { h with } (by decide) (by decide) (by decide) rfl).legal
  | innerKey => exact (h.padFillStep (hp ▸ rfl) (hp ▸ rfl) ipad).legal
  | innerData =>
    obtain rfl := hmac_of_phase (hp ▸ hph) (by decide)
    exact h.fillOr (hp ▸ rfl) _
      (InFlight.gotoPhase (s := { s with IS := s.H }) { h with } (by decide) (by decide) (by decide) rfl).legal
  | outerKey => exact (h.padFillStep (hp ▸ rfl) (hp ▸ rfl) opad).legal
  | outerData =>
    obtain rfl := hmac_of_phase (hp ▸ hph) (by decide)
    exact h.fillOr (hp ▸ rfl) _ (h.gotoPhase (by decide) (by decide) (by decide) rfl).legal
  | msg =>
    simp only
    split
    · have h' := h.loadIvAtStart
      exact h'.fillOr (by simp [hp, phaseCompresses]) _ h'.afterMessage
    · exact h.fillOr (hp ▸ rfl) _ h.afterMessage
  | store =>
    have hi : storesDigest i = true := by
      rw [hp] at hph
      cases i <;> revert hph <;> decide
    exact (h.storeDigest hi).finishCurrent.legal

theorem InFlight.expandStep (h : InFlight i s) (hs : s.seq.step = .expand) : InFlight i (expandStep s) := by
  have hne : s.seq.step ≠ .fill := hs ▸ EngineStep.noConfusion
  have ht := h.position.counter
  rw [hs] at ht
  obtain ⟨hlo, -⟩ := ht
  unfold Machine.expandStep
  simp only
  split
  · exact { h with position := h.position.withinBlock hne EngineStep.noConfusion ⟨by omega, by omega⟩ }
  · exact { h with position := h.position.withinBlock hne EngineStep.noConfusion rfl }

theorem InFlight.initStep (h : InFlight i s) (hs : s.seq.step = .init) : InFlight i (initStep s) :=
  { h with
    position := h.position.withinBlock (hs ▸ EngineStep.noConfusion) EngineStep.noConfusion (Nat.zero_lt_succ 63) }

theorem InFlight.roundStep (h : InFlight i s) (hs : s.seq.step = .round) : InFlight i (roundStep s) := by
  have hne : s.seq.step ≠ .fill := hs ▸ EngineStep.noConfusion
  unfold Machine.roundStep
  simp only
  split
  · exact { h with
      position := h.position.withinBlock hne EngineStep.noConfusion (show s.seq.t + 1 < 64 by omega) }
  · exact { h with position := h.position.withinBlock hne EngineStep.noConfusion rfl }

theorem InFlight.nextBlock (h : InFlight i s) (hne : s.seq.step ≠ .fill) (hi : i ≠ .compress) :
    InFlight i (nextBlock s) :=
  { h with position := h.position.nextBlock hne hi }

theorem InFlight.afterBlock (h : InFlight i s) (hne : s.seq.step ≠ .fill) : Legal (afterBlock s) := by
  have hph := h.position.phase
  have hc := h.position.compresses hne
  unfold Machine.afterBlock
  cases hp : s.seq.phase with
  | idle | keyBlock | store => exact absurd (hp ▸ hc) (by decide)
  | keyHash | innerData | outerData =>
    obtain rfl := hmac_of_phase (hp ▸ hph) (by decide)
    exact (h.nextBlock hne (by decide)).legal
  | innerKey =>
    obtain rfl := hmac_of_phase (hp ▸ hph) (by decide)
    have hlen : s.latch.DLEN.toNat ≤ maxTotal := by
      have := h.position.length
      simp only [lengthOk, Bool.and_eq_true, decide_eq_true_eq] at this
      omega
    exact (h.gotoRun (by decide) (by decide) rfl hlen (by decide)).legal
  | outerKey =>
    obtain rfl := hmac_of_phase (hp ▸ hph) (by decide)
    exact (h.gotoRun (by decide) (by decide) rfl (by decide) (by decide)).legal
  | msg =>
    simp only
    split
    · exact h.finishCurrent.legal
    · refine (h.nextBlock hne ?_).legal
      rintro rfl
      exact absurd h.position.op ‹_›

theorem InFlight.engineStep (h : InFlight i s) : Legal (engineStep s) := by
  unfold Machine.engineStep
  cases hs : s.seq.step with
  | fill => exact h.fillStep
  | expand => exact (h.expandStep hs).legal
  | init => exact (h.initStep hs).legal
  | round => exact (h.roundStep hs).legal
  | feed => exact InFlight.afterBlock (s := { s with H := _ }) { h with } (hs ▸ EngineStep.noConfusion)

end Engine

theorem Legal.engineTurn {s : State} (h : Legal s) : Legal (engineTurn s) := by
  unfold Machine.engineTurn
  split
  · obtain ⟨i, hi⟩ := h.inFlight ‹_›
    exact hi.engineStep
  · exact h

/-! ## Fault entry, reset and register writes -/

/-- The OUT bytes a command in flight might have been writing exist (R38). -/
theorem Legal.outInFlight_le_outCap {s : State} (h : Legal s) : outInFlight s ≤ s.platform.outCap := by
  cases hb : s.busy with
  | false => rw [outInFlight_idle s hb]; exact Nat.zero_le _
  | true =>
    obtain ⟨i, hi⟩ := h.inFlight hb
    cases hs : storesDigest i with
    | false => simp [outInFlight, hi.position.op, hs]
    | true =>
      have hle := outInFlight_le s
      have hcap := rangeOk_outLen hs hi.position.range
      omega

/-- Losing the OUT bytes of a command in flight leaves the spaces legal (R127, R140). -/
theorem Legal.memory_storeOut_freeOut {s : State} (h : Legal s) (draw : Nat) :
    MemoryLegal (storeOut (freeOut draw (outInFlight s)) s) := by
  refine h.memory.storeOut ?_
  rw [freeOut_length]
  exact h.outInFlight_le_outCap

theorem Legal.raise {s : State} (h : Legal s) (c : Cause) : AtRest (raise c s) where
  status := by simp [StatusLegal]
  memory := by
    unfold Machine.raise
    split
    · exact h.memory_storeOut_freeOut s.draws
    · exact h.memory
  idle := raise_busy c s
  seq := raise_seq c s

theorem Legal.applyReset {s : State} (h : Legal s) : AtRest (applyReset s) where
  status := by simp [StatusLegal]
  memory := h.memory_storeOut_freeOut s.draws
  idle := rfl
  seq := rfl

theorem Legal.writeRegister {s : State} (h : Legal s) (n : BitVec 7) (v : Word) : Legal (writeRegister n v s) := by
  rcases writeRegister_cases n v s with ⟨-, he⟩ | ⟨c, he⟩ | ⟨-, r, -, -, he⟩ <;> rw [he]
  · exact h
  · exact (h.raise c).legal
  · exact h.of_sameControl (by constructor <;> simp) (h.memory.of_same (by simp) (by simp) (by simp) (by simp))

/-! ## Acceptance and commands -/

/-- Acceptance of a command whose checks pass leaves `SEQ` at its first position, the latches of a first padder run set
up (R45, R83, R105). -/
theorem accept_positionOk (i : Instr) (s : State) (hl : lengthOk i (latchOperands i s) = true)
    (hr : rangeOk i s.platform (latchOperands i s) = true) :
    PositionOk i s.platform (accept i s).seq (accept i s).latch := by
  cases i with
  | loadIv => exact .enter rfl (by decide) (by decide) rfl rfl (by nofun) (by nofun)
  | compress =>
    exact ⟨rfl, List.mem_singleton_self _, (by decide : 16 ≤ 16 ∧ 16 < 64), fun _ => rfl,
      fun _ => EngineStep.noConfusion, rfl, rfl, by nofun, by nofun⟩
  | process =>
    have hlen := (lengthOk_process s).1 hl
    obtain ⟨hD, hO⟩ := accept_process_latch s
    refine .enter rfl (by decide) (by decide) ?_ hr (by nofun) ?_
    · rw [lengthOk, hD, hO]
      exact decide_eq_true hlen
    · intro L O h
      have h' : some (s.dataLen.toNat, (accept .process s).latch.O.toNat) = some (L, O) := h
      rw [hO] at h'
      cases h'
      exact runOk_beginRun (Nat.le_of_add_right_le hlen) (Nat.le_of_add_left_le hlen) _
  | storeDigest => exact .enter rfl (by decide) (by decide) rfl hr (by nofun) (by nofun)
  | hash =>
    have hlen := (lengthOk_hash s).1 hl
    refine .enter rfl (by decide) (by decide) hl hr (by nofun) ?_
    intro L O h
    cases h
    exact runOk_beginRun hlen (by decide) _
  | hmac =>
    obtain ⟨-, hk⟩ := (lengthOk_hmac s).1 hl
    simp only [accept, enterFirst]
    split
    · refine .enter rfl (by decide) (by decide) hl hr (fun _ => ‹_›) ?_
      intro L O h
      cases h
      exact runOk_beginRun hk (by decide) _
    · exact .enter rfl (by decide) (by decide) hl hr (by nofun) (by nofun)

theorem Legal.accept {i : Instr} {s : State} (h : Legal s) (hidle : isIdle s = true)
    (hl : lengthOk i (latchOperands i s) = true) (hr : rangeOk i s.platform (latchOperands i s) = true) :
    InFlight i (accept i s) := by
  obtain ⟨⟨-, -, hcause⟩, hm, -⟩ := h
  simp only [isIdle, Bool.and_eq_true, Bool.not_eq_true'] at hidle
  obtain ⟨-, hfault⟩ := hidle
  exact
    { busy := accept_busy i s
      done := accept_done i s
      fault := (accept_fault i s).trans hfault
      cause := (accept_cause i s).trans (hcause hfault)
      memory := hm.of_same (accept_data i s) (accept_key i s) (accept_out i s) (accept_platform i s)
      position := accept_platform i s ▸ accept_positionOk i s hl hr }

/-- A command's body writes OUT only if it stores, and then the first bytes of its digest (R37, R92). -/
theorem runCommand_out (i : Instr) (s : State) : (runCommand i s).out =
    if storesDigest i then s.out.writeBytes 0 (digestPrefix (runCommand i s).H s.latch.OLEN.toNat) else s.out := by
  cases i <;> rfl

/-- Run to completion, a command leaves the block at rest. -/
theorem InFlight.runCommand {i : Instr} {s : State} (h : InFlight i s) : AtRest (runCommand i s) := by
  obtain ⟨hbusy, -, hfault, hcause, hseq⟩ := runCommand_completes i s
  obtain ⟨-, -, -, -, hdata, hkey, hplatform, -⟩ := runCommand_sameOutside i s
  refine ⟨by simp [StatusLegal, hbusy, hfault, hcause, h.fault, h.cause], ?_, hbusy, hseq⟩
  have hout := runCommand_out i s
  cases hi : storesDigest i with
  | false => exact h.memory.of_same hdata hkey (by simpa [hi] using hout) hplatform
  | true =>
    have hlen := rangeOk_outLen hi h.position.range
    have hstored := h.memory.storeOut (bytes := digestPrefix (Machine.runCommand i s).H s.latch.OLEN.toNat)
      (by rw [digestPrefix_length]; omega)
    exact hstored.of_same hdata hkey (by simpa [hi] using hout) hplatform

/-- The issue sequence keeps states legal if what follows acceptance does (R45, R126). -/
theorem Legal.issue {i : Instr} {run : State → State} {s t : State} (h : Legal s)
    (hrun : ∀ u, InFlight i u → Legal (run u)) (ht : issue i run s = .next t) : Legal t := by
  rcases issue_next ht with rfl | ⟨c, rfl⟩ | ⟨hidle, hl, hr, rfl⟩
  · exact h
  · exact (h.raise c).legal
  · exact hrun _ (h.accept hidle hl hr)

theorem Legal.exec {i : Instr} {s t : State} (h : Legal s) (ht : exec i s = .next t) : Legal t :=
  h.issue (fun _ hu => hu.runCommand.legal) ((exec_eq_issue i s).symm.trans ht)

/-! ## The host's moves -/

theorem Legal.startCommand {v : Word} {s t : State} (h : Legal s) (ht : startCommand v s = .next t) : Legal t := by
  rcases startCommand_cases v s with ⟨i, -, he⟩ | he <;> rw [he] at ht
  · exact h.issue (fun _ hu => hu.legal) ht
  · exact Host.Outcome.next.inj ht ▸ h.writeRegister 0 v

theorem Legal.readRegister {s : State} (h : Legal s) (n : BitVec 7) : Legal (readRegister n s) :=
  h.of_sameControl ⟨rfl, rfl, rfl, rfl, rfl, rfl, rfl⟩ (h.memory.of_same rfl rfl rfl rfl)

/-- A host write reaches a space below its capacity only (R30). -/
theorem Legal.pokeByte {sp : Space} {a : Nat} {b : Byte} {s t : State} (h : Legal s)
    (ht : pokeByte sp a b s = .next t) : Legal t := by
  obtain ⟨ha, hw⟩ := pokeByte_next ht
  have hm := h.memory.writeByte b ha
  rcases hw with ⟨-, rfl⟩ | ⟨-, rfl⟩
  · exact h.of_sameControl (by constructor <;> simp) hm
  · exact h.of_sameControl (by constructor <;> simp [raceByte]) hm

theorem Legal.peekByte {a : Nat} {s t : State} (h : Legal s) (ht : peekByte a s = .next t) : Legal t := by
  rw [peekByte_next ht]
  exact h.of_sameControl ⟨rfl, rfl, rfl, rfl, rfl, rfl, rfl⟩ (h.memory.of_same rfl rfl rfl rfl)

theorem Legal.withHost {s : State} (h : Legal s) (ms : List Move) : Legal { s with host := ms } :=
  h.of_sameControl ⟨rfl, rfl, rfl, rfl, rfl, rfl, rfl⟩ (h.memory.of_same rfl rfl rfl rfl)

theorem Legal.waitPoll {s : State} (h : Legal s) : Legal (waitPoll s) := by
  rcases waitPoll_cases s with ⟨-, he⟩ | ⟨-, he⟩ | ⟨-, he⟩ <;> rw [he]
  · exact (h.withHost _).engineTurn
  · exact h.readRegister 1
  · exact h.withHost _

theorem Legal.makeMove {m : Move} {s t : State} (h : Legal s) (ht : makeMove m s = .next t) : Legal t := by
  cases m with
  | write n v => exact Host.Outcome.next.inj ht ▸ h.writeRegister n v
  | start v => exact h.startCommand ht
  | engine => exact Host.Outcome.next.inj ht ▸ h.engineTurn
  | read n => exact Host.Outcome.next.inj ht ▸ h.readRegister n
  | bus addr acc => cases ht
  | poke sp a b => exact h.pokeByte ht
  | peek a => exact h.peekByte ht
  | wait => exact Host.Outcome.next.inj ht ▸ h.waitPoll
  | reset => exact Host.Outcome.next.inj ht ▸ h.applyReset.legal

/-! ## The statement -/

/-- Settles O55: whatever the step is, it keeps the state legal. -/
theorem stepKeepsStatesLegal : Obligations.StepKeepsStatesLegal := by
  intro s t h ht
  rcases step_cases s with ⟨-, he⟩ | ⟨m, rest, i, -, -, he⟩ | ⟨m, rest, -, -, he⟩ <;> rw [he] at ht
  · exact Host.Outcome.next.inj ht ▸ h.engineTurn
  · exact (h.withHost rest).exec ht
  · exact (h.withHost rest).makeMove ht

/-! ## Reset (R27) -/

/-- Settles O42: each value stands in the reset state. -/
theorem resetStateValues : Obligations.ResetStateValues :=
  ⟨by decide, by decide, rfl, rfl, rfl, rfl, rfl⟩

/-- Settles O54: the reset state is at rest with blank spaces, and its binding is `4 n` for index `n`. -/
theorem resetStateIsLegal : Obligations.ResetStateIsLegal := by
  refine ⟨AtRest.legal ⟨by simp [StatusLegal, State.reset], ?_, rfl, rfl⟩, fun i j hi hj h => ?_⟩
  · intro sp
    cases sp <;> exact ⟨rfl, List.forall_mem_nil _⟩
  · simp only [State.reset, resetPlatform, Vector.getElem_ofFn] at h
    omega

end Sys2Proof.Machine
end

section
/-! PROOFS. How a command comes to be in flight (R20, R45), and that the operand registers cannot reach it there (R18,
R144). -/

namespace Sys2Proof.Machine

/-! ## A command starts by a write to `CMD` alone (R20, R45) -/

/-- A step that puts no command in flight and completes none. -/
structure StartsNothing (s t : State) : Prop where
  busy : t.busy = false
  done : t.done = true → s.done = true

/-- After such a step there is nothing to show of a command in flight or of one just completed. -/
theorem StartsNothing.elim {s t : State} {P Q : Prop} (h : StartsNothing s t) :
    (t.busy = true → P) ∧ (s.done = false → t.done = true → Q) :=
  ⟨fun hb => absurd (h.busy.symm.trans hb) Bool.false_ne_true,
    fun hs ht => absurd (hs.symm.trans (h.done ht)) Bool.false_ne_true⟩

theorem StartsNothing.raise (c : Cause) (s : State) : StartsNothing s (raise c s) := ⟨raise_busy c s, by simp⟩

theorem StartsNothing.applyReset (s : State) : StartsNothing s (applyReset s) := ⟨rfl, by simp⟩

section

variable {s t : State} (hb : s.busy = false)
include hb

theorem StartsNothing.refl : StartsNothing s s := ⟨hb, id⟩

theorem StartsNothing.writeRegister (n : BitVec 7) (v : Word) : StartsNothing s (writeRegister n v s) := by
  rcases writeRegister_cases n v s with ⟨-, he⟩ | ⟨c, he⟩ | ⟨-, r, -, -, he⟩ <;> rw [he]
  · exact .refl hb
  · exact .raise c s
  · exact ⟨by simpa using hb, by simp⟩

theorem StartsNothing.pokeByte {sp : Space} {a : Nat} {b : Byte} (ht : pokeByte sp a b s = .next t) :
    StartsNothing s t := by
  obtain ⟨-, ⟨-, rfl⟩ | ⟨hb', -⟩⟩ := pokeByte_next ht
  · exact ⟨by simpa using hb, by simp⟩
  · exact absurd (hb.symm.trans hb') Bool.false_ne_true

theorem StartsNothing.peekByte {a : Nat} (ht : peekByte a s = .next t) : StartsNothing s t := by
  rw [peekByte_next ht]
  exact ⟨hb, id⟩

theorem StartsNothing.waitPoll : StartsNothing s (waitPoll s) := by
  rcases waitPoll_cases s with ⟨hb', -⟩ | ⟨-, he⟩ | ⟨-, he⟩
  · exact absurd (hb.symm.trans hb') Bool.false_ne_true
  · exact he ▸ ⟨hb, id⟩
  · exact he ▸ ⟨hb, id⟩

/-- The issue sequence from a block that is not busy: it starts nothing, or accepts the command of an idle block. -/
theorem issue_starts {i : Instr} {run : State → State} (ht : issue i run s = .next t) :
    StartsNothing s t ∨ (isIdle s = true ∧ t = run (accept i s)) := by
  rcases issue_next ht with rfl | ⟨c, rfl⟩ | ⟨hidle, -, -, rfl⟩
  · exact .inl (.refl hb)
  · exact .inl (.raise c s)
  · exact .inr ⟨hidle, rfl⟩

/-- A move other than an atomic command starts nothing, unless it is the other form of the `CMD` write. -/
theorem makeMove_starts {m : Move} (ht : makeMove m s = .next t) :
    StartsNothing s t ∨ ∃ v i, m = .start v ∧ decode v = .ok i ∧ isIdle s = true ∧ t = accept i s := by
  cases m with
  | write n v => exact .inl (Host.Outcome.next.inj ht ▸ .writeRegister hb n v)
  | start v =>
    change startCommand v s = .next t at ht
    rcases startCommand_cases v s with ⟨i, hd, he⟩ | he <;> rw [he] at ht
    · refine (issue_starts hb ht).imp_right fun h => ?_
      obtain ⟨hidle, ht'⟩ := h
      exact ⟨v, i, rfl, hd, hidle, ht'⟩
    · exact .inl (Host.Outcome.next.inj ht ▸ .writeRegister hb 0 v)
  | engine =>
    have he : engineTurn s = s := engineTurns_idle 1 s hb
    exact .inl (Host.Outcome.next.inj ht ▸ he.symm ▸ .refl hb)
  | read n => exact .inl (Host.Outcome.next.inj ht ▸ ⟨hb, id⟩)
  | bus addr acc => cases ht
  | poke sp a b => exact .inl (.pokeByte hb ht)
  | peek a => exact .inl (.peekByte hb ht)
  | wait => exact .inl (Host.Outcome.next.inj ht ▸ .waitPoll hb)
  | reset => exact .inl (Host.Outcome.next.inj ht ▸ .applyReset s)

end

@[simp] theorem accept_seq_op (i : Instr) (s : State) : (accept i s).seq.op = some i := by
  cases i with
  | hmac =>
    simp only [accept, enterFirst]
    split <;> rfl
  | loadIv | compress | process | storeDigest | hash => rfl

/-- Settles O56: a step from a block that is not busy starts nothing, or is one of the two forms of the `CMD` write. -/
theorem onlyACommandWriteStartsACommand : Obligations.OnlyACommandWriteStartsACommand := by
  intro s t hb ht
  rcases step_cases s with ⟨-, he⟩ | ⟨m, rest, i, hm, hi, he⟩ | ⟨m, rest, hm, -, he⟩ <;> rw [he] at ht
  · have hs : engineTurn s = s := engineTurns_idle 1 s hb
    obtain rfl := Host.Outcome.next.inj (hs ▸ ht)
    exact StartsNothing.elim (.refl hb)
  · obtain ⟨v, hv, hd⟩ := issuedBy_some _ i hi
    rw [exec_eq_issue] at ht
    rcases issue_starts (s := { s with host := rest }) hb ht with h | ⟨hidle, rfl⟩
    · exact h.elim
    · obtain ⟨hbusy, -⟩ := runCommand_completes i (accept i { s with host := rest })
      exact ⟨fun hbt => absurd (hbusy.symm.trans hbt) Bool.false_ne_true, fun _ _ => ⟨m, rest, v, i, hm, hv, hd, hidle⟩⟩
  · rcases makeMove_starts (s := { s with host := rest }) hb ht with h | ⟨v, i, hv, hd, hidle, rfl⟩
    · exact h.elim
    · refine ⟨fun _ => ⟨m, rest, v, i, hm, hv, hd, hidle, accept_seq_op i _, accept_done i _⟩, fun _ hdt => ?_⟩
      exact absurd ((accept_done i _).symm.trans hdt) Bool.false_ne_true

/-! ## A command in flight runs on what it latched (R18, R144) -/

section Operands

variable (o : Operand) (v : Size) (s : State)

theorem finishCurrent_setOperand : finishCurrent (setOperand o v s) = setOperand o v (finishCurrent s) := by
  simp only [finishCurrent, setOperand_seq]
  cases s.seq.op <;> cases o <;> rfl

theorem engineByte_setOperand (sp : Space) : engineByte (setOperand o v s) sp = engineByte s sp := by
  funext a
  cases sp <;> simp [engineByte, spaceBytes]

theorem loadIvAtStart_setOperand : loadIvAtStart (setOperand o v s) = setOperand o v (loadIvAtStart s) := by
  simp only [loadIvAtStart, setOperand_latch]
  split
  · cases o <;> rfl
  · rfl

theorem fillOr_setOperand (src : Nat → Byte) (after : State → State)
    (h : after (setOperand o v s) = setOperand o v (after s)) :
    fillOr src after (setOperand o v s) = setOperand o v (fillOr src after s) := by
  simp only [fillOr, setOperand_latch]
  split
  · cases o <;> rfl
  · exact h

theorem afterMessage_setOperand : afterMessage (setOperand o v s) = setOperand o v (afterMessage s) := by
  simp only [afterMessage, setOperand_seq]
  split
  · cases o <;> rfl
  · exact finishCurrent_setOperand o v s

theorem storeStep_setOperand : storeStep (setOperand o v s) = setOperand o v (storeStep s) := by
  have h : storeDigest (setOperand o v s) = setOperand o v (storeDigest s) := by cases o <;> rfl
  rw [storeStep, h, finishCurrent_setOperand, storeStep]

theorem keyBlockStep_setOperand : keyBlockStep (setOperand o v s) = setOperand o v (keyBlockStep s) := by
  simp only [keyBlockStep, engineByte_setOperand]
  cases o <;> rfl

theorem fillStep_setOperand : fillStep (setOperand o v s) = setOperand o v (fillStep s) := by
  simp only [fillStep, setOperand_seq, engineByte_setOperand, loadIvAtStart_setOperand]
  cases s.seq.phase with
  | idle =>
    exact (congrArg finishCurrent (by cases o <;> rfl)).trans (finishCurrent_setOperand o v { s with H := IV })
  | keyHash => exact fillOr_setOperand o v _ _ _ (by cases o <;> rfl)
  | keyBlock => exact keyBlockStep_setOperand o v s
  | innerKey | outerKey => cases o <;> rfl
  | innerData => exact fillOr_setOperand o v _ _ _ (by cases o <;> rfl)
  | outerData =>
    simp only [setOperand_IS]
    exact fillOr_setOperand o v _ _ _ (by cases o <;> rfl)
  | msg =>
    simp only
    split
    · exact fillOr_setOperand o v _ _ _ (afterMessage_setOperand o v _)
    · exact fillOr_setOperand o v _ _ _ (afterMessage_setOperand o v s)
  | store => exact storeStep_setOperand o v s

theorem afterBlock_setOperand : afterBlock (setOperand o v s) = setOperand o v (afterBlock s) := by
  simp only [afterBlock, setOperand_seq, finishCurrent_setOperand]
  cases s.seq.phase with
  | idle | keyBlock | store => rfl
  | msg =>
    simp only
    split
    · rfl
    · cases o <;> rfl
  | keyHash | innerKey | innerData | outerKey | outerData => cases o <;> rfl

theorem engineStep_setOperand : engineStep (setOperand o v s) = setOperand o v (engineStep s) := by
  simp only [engineStep, setOperand_seq]
  cases s.seq.step with
  | fill => exact fillStep_setOperand o v s
  | expand =>
    simp only [expandStep, setOperand_seq]
    split <;> cases o <;> rfl
  | init => cases o <;> rfl
  | round =>
    simp only [roundStep, setOperand_seq]
    split <;> cases o <;> rfl
  | feed =>
    simp only [feedStep, setOperand_H, setOperand_V]
    exact (congrArg afterBlock (by cases o <;> rfl)).trans (afterBlock_setOperand o v { s with H := feed s.H s.V })

theorem engineTurn_setOperand : engineTurn (setOperand o v s) = setOperand o v (engineTurn s) := by
  simp only [engineTurn, setOperand_busy]
  split
  · exact engineStep_setOperand o v s
  · rfl

end Operands

/-- Settles O57: no step of the engine reads an operand register or writes one. -/
theorem operandsDoNotReachACommandInFlight : Obligations.OperandsDoNotReachACommandInFlight := by
  intro s o v k
  induction k generalizing s with
  | zero => rfl
  | succ k ih => rw [engineTurns, engineTurns, engineTurn_setOperand, ih]

end Sys2Proof.Machine
end

section
/-! PROOFS. The buffer spaces: the bytes of its source a padder run reads (R36), the host's writes and reads of buffer
bytes (R30, R44, R145), that nothing else writes DATA and KEY (R44), and the halves of a 64-bit operand (R34). -/

namespace Sys2Proof.Machine

/-- Settles O19: every block of the run is the same for both sources. -/
theorem padderReadsOnlyTheStatedBytes : Obligations.PadderReadsOnlyTheStatedBytes :=
  fun S _ _ _ O h => PS_congr S O h

/-! ## The two halves of an operand register (R34) -/

/-- Once both halves are written nothing of the old value is left, whichever half came first. -/
theorem withHalf_both (v : Size) (lo hi : Word) :
    withHalf (withHalf v .lo lo) .hi hi = hi ++ lo ∧ withHalf (withHalf v .hi hi) .lo lo = hi ++ lo :=
  ⟨congrArg (hi ++ ·) (halfOf_withHalf_same v .lo lo), congrArg (· ++ lo) (halfOf_withHalf_same v .hi hi)⟩

/-- An idle block takes the half written into the operand register (R23 item 8). -/
theorem writeRegister_operand (o : Operand) (h : Half) (v : Word) {s : State} (hs : isIdle s = true) :
    writeRegister (indexOf (.operand o h)) v s = setRegister (.operand o h) v s :=
  writeRegister_readWrite (regAt_indexOf _) rfl v hs

theorem operandValue_setRegister (o : Operand) (h : Half) (v : Word) (s : State) :
    operandValue (setRegister (.operand o h) v s) o = withHalf (operandValue s o) h v :=
  operandValue_setOperand_same o _ s

/-- Two writes of halves in an idle state, one after the other. -/
theorem operandValue_writeRegister_twice (o : Operand) (h h' : Half) (v v' : Word) {s : State} (hs : isIdle s = true) :
    operandValue (writeRegister (indexOf (.operand o h')) v' (writeRegister (indexOf (.operand o h)) v s)) o =
      withHalf (withHalf (operandValue s o) h v) h' v' := by
  rw [writeRegister_operand o h v hs, writeRegister_operand o h' v' ((isIdle_setRegister _ v s).trans hs),
    operandValue_setRegister, operandValue_setRegister]

/-- Settles O47: each order of the two writes replaces both halves. -/
theorem operandHalvesInAnyOrder : Obligations.OperandHalvesInAnyOrder := by
  intro s o lo hi hs
  obtain ⟨hlo, hhi⟩ := withHalf_both (operandValue s o) lo hi
  exact ⟨(operandValue_writeRegister_twice o .lo .hi lo hi hs).trans hlo,
    (operandValue_writeRegister_twice o .hi .lo hi lo hs).trans hhi⟩

/-! ## A host write of a buffer byte (R30, R44) -/

theorem step_poke_idle {s : State} {sp : Space} {a : Nat} {b : Byte} {rest : List Move}
    (h : s.host = .poke sp a b :: rest) (hb : s.busy = false) (ha : a < capacity s.platform sp) :
    step s = .next (writeByte sp a b { s with host := rest }) := by
  simp [step, h, boundMove, issuedBy, makeMove, pokeByte, hb, ha]

/-- A write of one byte is not seen at another index or in another space. -/
theorem read_writeByte_other {sp sp' : Space} {a a' : Nat} (h : sp' ≠ sp ∨ a' ≠ a) (b : Byte) (s : State) :
    (spaceBytes (writeByte sp a b s) sp').read a' = (spaceBytes s sp').read a' := by
  by_cases hsp : sp' = sp
  · subst hsp
    rw [spaceBytes_writeByte_same, Memory.read_write_other _ _ _ _ (h.resolve_left (not_not_intro rfl))]
  · rw [spaceBytes_writeByte_other hsp]

/-- Settles O50: the step writes the byte, and a write of a byte changes no other one and nothing but its space. -/
theorem bufferWriteChangesOneByte : Obligations.BufferWriteChangesOneByte := by
  intro s sp a b rest hb hh ha hwf
  have hspaces : ∀ sp', spaceBytes { s with host := rest } sp' = spaceBytes s sp' := fun sp' => by cases sp' <;> rfl
  refine ⟨_, step_poke_idle hh hb ha, ?_, fun sp' a' hne => ?_, ?_⟩
  · rw [spaceBytes_writeByte_same, hspaces, Memory.read_write_same _ a b hwf]
  · rw [read_writeByte_other hne, hspaces]
  · simp

/-! ## A host read of an OUT byte (R30, R145) -/

theorem step_peek {s : State} {a : Nat} {rest : List Move} (h : s.host = .peek a :: rest) (ha : a < s.platform.outCap) :
    step s = .next { s with host := rest, byteRead := peekValue a { s with host := rest }, draws := s.draws + 1 } := by
  simp [step, h, boundMove, issuedBy, makeMove, peekByte, ha]

/-- A command that stores no digest writes no byte of OUT (R47). -/
theorem outInFlight_of_not_storesDigest {s : State} (h : ∀ i, s.seq.op = some i → storesDigest i = false) :
    outInFlight s = 0 := by
  unfold outInFlight
  cases hop : s.seq.op with
  | none => rfl
  | some i => simp [h i hop]

/-- A byte the command in flight does not store reads as OUT holds it (R145). -/
theorem peekValue_of_outInFlight_le {a : Nat} {s : State} (h : outInFlight s ≤ a) : peekValue a s = s.out.read a :=
  if_neg (Nat.not_lt.2 h)

/-- Every byte reads as the old or the new one (R145). -/
theorem peekValue_old_or_new (a : Nat) (s : State) : peekValue a s = s.out.read a ∨ peekValue a s = newOutByte a s := by
  unfold peekValue
  split
  · split
    · exact .inl rfl
    · exact .inr rfl
  · exact .inl rfl

/-- Settles O51: the host may get the new byte only where the command in flight stores one, and the read changes nothing
of the block. -/
theorem outReadReturnsTheByte : Obligations.OutReadReturnsTheByte := by
  intro s a rest hh ha
  have hold : outInFlight s ≤ a → peekValue a { s with host := rest } = s.out.read a := fun h =>
    peekValue_of_outInFlight_le (s := { s with host := rest }) h
  refine ⟨_, step_peek hh ha, fun hb => hold ?_, ?_, fun hle => hold ((outInFlight_le s).trans hle),
    fun hop => hold ?_, ?_⟩
  · rw [outInFlight_idle s hb]
    exact Nat.zero_le a
  · rw [← newOutByte_host a s rest]
    exact peekValue_old_or_new a { s with host := rest }
  · rw [outInFlight_of_not_storesDigest fun i hi => ?_]
    · exact Nat.zero_le a
    · rcases hop i hi with rfl | rfl | rfl <;> rfl
  · simp [SameDatapath, SameOutside]

/-! ## DATA, KEY and the platform are the host's (R31, R44) -/

/-- What a command reads from outside the block: the bytes of DATA and KEY, on a platform that never changes. -/
structure SameInputs (s t : State) : Prop where
  platform : t.platform = s.platform
  data : t.data = s.data
  key : t.key = s.key

theorem SameInputs.trans {s t u : State} (h : SameInputs s t) (h' : SameInputs t u) : SameInputs s u :=
  ⟨h'.platform.trans h.platform, h'.data.trans h.data, h'.key.trans h.key⟩

section

variable (s : State)

/-! ### The engine's turns -/

theorem SameInputs.finishCurrent : SameInputs s (finishCurrent s) := by
  unfold Machine.finishCurrent
  cases s.seq.op <;> exact ⟨rfl, rfl, rfl⟩

theorem SameInputs.loadIvAtStart : SameInputs s (loadIvAtStart s) := by
  unfold Machine.loadIvAtStart
  split <;> exact ⟨rfl, rfl, rfl⟩

variable {s} in
theorem SameInputs.fillOr (src : Nat → Byte) {after : State → State} (h : SameInputs s (after s)) :
    SameInputs s (fillOr src after s) := by
  unfold Machine.fillOr
  split
  · exact ⟨goto_platform _ _ _ _, goto_data _ _ _ _, goto_key _ _ _ _⟩
  · exact h

theorem SameInputs.afterMessage : SameInputs s (afterMessage s) := by
  unfold Machine.afterMessage
  split
  · exact ⟨rfl, rfl, rfl⟩
  · exact .finishCurrent s

theorem SameInputs.storeStep : SameInputs s (storeStep s) :=
  SameInputs.trans (t := storeDigest s) ⟨rfl, rfl, rfl⟩ (.finishCurrent _)

theorem SameInputs.fillStep : SameInputs s (fillStep s) := by
  unfold Machine.fillStep
  cases s.seq.phase with
  | idle => exact .trans (t := { s with H := IV }) ⟨rfl, rfl, rfl⟩ (.finishCurrent _)
  | keyHash => exact .trans (.loadIvAtStart s) (.fillOr _ ⟨rfl, rfl, rfl⟩)
  | keyBlock | innerKey | outerKey => exact ⟨rfl, rfl, rfl⟩
  | innerData | outerData => exact .fillOr _ ⟨rfl, rfl, rfl⟩
  | msg =>
    simp only
    split
    · exact .trans (.loadIvAtStart s) (.fillOr _ (.afterMessage _))
    · exact .fillOr _ (.afterMessage s)
  | store => exact .storeStep s

theorem SameInputs.afterBlock : SameInputs s (afterBlock s) := by
  unfold Machine.afterBlock
  cases s.seq.phase with
  | innerKey | outerKey | keyHash | innerData | outerData => exact ⟨rfl, rfl, rfl⟩
  | idle | keyBlock | store => exact .finishCurrent s
  | msg =>
    simp only
    split
    · exact .finishCurrent s
    · exact ⟨rfl, rfl, rfl⟩

theorem SameInputs.engineStep : SameInputs s (engineStep s) := by
  unfold Machine.engineStep
  cases s.seq.step with
  | fill => exact .fillStep s
  | expand =>
    unfold expandStep
    simp only
    split <;> exact ⟨rfl, rfl, rfl⟩
  | init => exact ⟨rfl, rfl, rfl⟩
  | round =>
    unfold roundStep
    simp only
    split <;> exact ⟨rfl, rfl, rfl⟩
  | feed => exact .trans (t := { s with H := feed s.H s.V }) ⟨rfl, rfl, rfl⟩ (.afterBlock _)

theorem SameInputs.engineTurn : SameInputs s (engineTurn s) := by
  unfold Machine.engineTurn
  split
  · exact .engineStep s
  · exact ⟨rfl, rfl, rfl⟩

/-! ### Register writes, commands and the other moves -/

theorem SameInputs.raise (c : Cause) : SameInputs s (raise c s) := ⟨raise_platform c s, raise_data c s, raise_key c s⟩

theorem SameInputs.writeRegister (n : BitVec 7) (v : Word) : SameInputs s (writeRegister n v s) := by
  rcases writeRegister_cases n v s with ⟨-, he⟩ | ⟨c, he⟩ | ⟨-, r, -, -, he⟩ <;> rw [he]
  · exact ⟨rfl, rfl, rfl⟩
  · exact .raise s c
  · exact ⟨setRegister_platform r v s, setRegister_data r v s, setRegister_key r v s⟩

theorem SameInputs.accept (i : Instr) : SameInputs s (accept i s) :=
  ⟨accept_platform i s, accept_data i s, accept_key i s⟩

theorem SameInputs.runCommand (i : Instr) : SameInputs s (runCommand i s) := by
  obtain ⟨-, -, -, -, hdata, hkey, hplatform, -⟩ := runCommand_sameOutside i s
  exact ⟨hplatform, hdata, hkey⟩

theorem SameInputs.waitPoll : SameInputs s (waitPoll s) := by
  rcases waitPoll_cases s with ⟨-, he⟩ | ⟨-, he⟩ | ⟨-, he⟩ <;> rw [he]
  · exact .trans (t := { s with host := .wait :: s.host }) ⟨rfl, rfl, rfl⟩ (.engineTurn _)
  · exact ⟨rfl, rfl, rfl⟩
  · exact ⟨rfl, rfl, rfl⟩

variable {s} {t : State}

/-- The issue sequence keeps DATA and KEY if what follows acceptance does. -/
theorem SameInputs.issue {i : Instr} {run : State → State} (hrun : ∀ u, SameInputs u (run u))
    (ht : issue i run s = .next t) : SameInputs s t := by
  rcases issue_next ht with rfl | ⟨c, rfl⟩ | ⟨-, -, -, rfl⟩
  · exact ⟨rfl, rfl, rfl⟩
  · exact .raise s c
  · exact .trans (.accept s i) (hrun _)

theorem SameInputs.exec {i : Instr} (ht : exec i s = .next t) : SameInputs s t :=
  .issue (fun u => .runCommand u i) ((exec_eq_issue i s).symm.trans ht)

theorem SameInputs.startCommand {v : Word} (ht : startCommand v s = .next t) : SameInputs s t := by
  rcases startCommand_cases v s with ⟨i, -, he⟩ | he <;> rw [he] at ht
  · exact .issue (fun _ => ⟨rfl, rfl, rfl⟩) ht
  · exact Host.Outcome.next.inj ht ▸ .writeRegister s 0 v

theorem SameInputs.peekByte {a : Nat} (ht : peekByte a s = .next t) : SameInputs s t := by
  rw [peekByte_next ht]
  exact ⟨rfl, rfl, rfl⟩

/-- A host write of a buffer byte keeps the platform (R31). -/
theorem pokeByte_platform {sp : Space} {a : Nat} {b : Byte} (ht : pokeByte sp a b s = .next t) :
    t.platform = s.platform := by
  obtain ⟨-, ⟨-, rfl⟩ | ⟨-, rfl⟩⟩ := pokeByte_next ht
  · exact writeByte_platform sp a b s
  · exact writeByte_platform sp a b s

/-- A move either writes a buffer byte or keeps DATA and KEY (R44). -/
theorem makeMove_inputs {m : Move} (ht : makeMove m s = .next t) :
    SameInputs s t ∨ ((∃ sp a b, m = .poke sp a b) ∧ t.platform = s.platform) := by
  cases m with
  | poke sp a b => exact .inr ⟨⟨sp, a, b, rfl⟩, pokeByte_platform ht⟩
  | write n v => exact .inl (Host.Outcome.next.inj ht ▸ .writeRegister s n v)
  | start v => exact .inl (.startCommand ht)
  | engine => exact .inl (Host.Outcome.next.inj ht ▸ .engineTurn s)
  | read n => exact .inl (Host.Outcome.next.inj ht ▸ ⟨rfl, rfl, rfl⟩)
  | bus addr acc => cases ht
  | peek a => exact .inl (.peekByte ht)
  | wait => exact .inl (Host.Outcome.next.inj ht ▸ .waitPoll s)
  | reset => exact .inl (Host.Outcome.next.inj ht ▸ ⟨rfl, rfl, rfl⟩)

end

/-- The bus reaches the registers alone (R23). -/
theorem accessMove_ne_poke (n : BitVec 7) (acc : BusAccess) (sp : Space) (a : Nat) (b : Byte) :
    accessMove n acc ≠ .poke sp a b := by
  cases acc with
  | write v | read => exact Move.noConfusion
  | start v =>
    simp only [accessMove]
    split <;> exact Move.noConfusion

/-- So a move bound to the write of a buffer byte is that write. -/
theorem eq_poke_of_boundMove {p : Config.Platform} {m : Move} {sp : Space} {a : Nat} {b : Byte}
    (h : boundMove p m = .poke sp a b) : m = .poke sp a b := by
  cases m with
  | bus addr acc =>
    simp only [boundMove] at h
    split at h
    · exact absurd h (accessMove_ne_poke _ acc sp a b)
    · cases h
  | _ => exact h

/-- Settles O53: every step but a host write of a buffer byte keeps DATA and KEY, and that one keeps the platform. -/
theorem onlyTheHostWritesDataAndKey : Obligations.OnlyTheHostWritesDataAndKey := by
  intro s t ht
  rcases step_cases s with ⟨-, he⟩ | ⟨m, rest, i, -, -, he⟩ | ⟨m, rest, hm, -, he⟩ <;> rw [he] at ht
  · obtain ⟨hp, hd, hk⟩ := Host.Outcome.next.inj ht ▸ SameInputs.engineTurn s
    exact ⟨hp, fun _ => ⟨hd, hk⟩⟩
  · obtain ⟨hp, hd, hk⟩ := SameInputs.exec ht
    exact ⟨hp, fun _ => ⟨hd, hk⟩⟩
  · rcases makeMove_inputs ht with ⟨hp, hd, hk⟩ | ⟨⟨sp, a, b, hpoke⟩, hp⟩
    · exact ⟨hp, fun _ => ⟨hd, hk⟩⟩
    · exact ⟨hp, fun h => absurd (hm.trans (eq_poke_of_boundMove hpoke ▸ rfl)) (h sp a b rest)⟩

end Sys2Proof.Machine
end

section
/-! PROOFS. The command words (R45, R46, R48, R49): what the decoder accepts, and the step that meets a command's word. -/

namespace Sys2Proof

/-! ## The two fields of a word (R45) -/

/-- A word is its reserved field and its `OP` field. -/
theorem eq_of_fields {v w : Word} (hz : zeroField v = zeroField w) (ho : opField v = opField w) : v = w := by
  have hzero := congrArg BitVec.toNat hz
  have hop := congrArg BitVec.toNat ho
  simp only [zeroField, opField, BitVec.extractLsb'_toNat, Nat.shiftRight_eq_div_pow] at hzero hop
  apply BitVec.eq_of_toNat_eq
  omega

/-! ## The decoder and the encoder -/

theorem Laws.Encoding.every (i : Instr) : Laws.Encoding.Statement i :=
  match i with
  | .loadIv => loadIv
  | .compress => compress
  | .process => process
  | .storeDigest => storeDigest
  | .hash => hash
  | .hmac => hmac

@[simp] theorem decode_encode (i : Instr) : decode (encode i) = .ok i :=
  have ⟨_, _, hdecode, _⟩ := Laws.Encoding.every i
  hdecode

@[simp] theorem wordWellFormed_encode (i : Instr) : wordWellFormed (encode i) = true :=
  have ⟨_, hword, _, _⟩ := Laws.Encoding.every i
  hword

@[simp] theorem zeroField_encode (i : Instr) : zeroField (encode i) = 0 := by
  cases i <;> rfl

/-- A code stands for a command only if it is the `OP` field of that command's word (R46). -/
theorem eq_opField_encode_of_decodeOp {op : Byte} {i : Instr} (h : decodeOp op = .ok i) : op = opField (encode i) := by
  unfold decodeOp at h
  split_ifs at h <;> cases h <;> assumption

/-- Every code from `0x01` to `0x06` stands for a command (R46). -/
theorem exists_decodeOp {op : Byte} (h1 : 1 ≤ op.toNat) (h6 : op.toNat ≤ 6) : ∃ i, decodeOp op = .ok i := by
  have hop : BitVec.ofNat 8 op.toNat = op := by simp
  rw [← hop]
  interval_cases op.toNat <;> exact ⟨_, rfl⟩

/-- A word passes the first check of format C, and its code stands for the command (R45, R46). -/
theorem decode_ok_iff_fields {v : Word} {i : Instr} :
    decode v = .ok i ↔ zeroField v = 0 ∧ decodeOp (opField v) = .ok i := by
  by_cases hz : zeroField v = 0
  · rw [decode, if_pos hz, and_iff_right hz]
  · rw [decode, if_neg hz]
    simp only [hz, reduceCtorEq, false_and]

theorem decode_ok_iff {v : Word} {i : Instr} : decode v = .ok i ↔ v = encode i := by
  constructor
  · intro h
    obtain ⟨hz, ho⟩ := decode_ok_iff_fields.mp h
    exact eq_of_fields (hz.trans (zeroField_encode i).symm) (eq_opField_encode_of_decodeOp ho)
  · rintro rfl
    exact decode_encode i

theorem exists_decode_of_wordWellFormed {v : Word} (h : wordWellFormed v = true) : ∃ i, decode v = .ok i := by
  simp only [wordWellFormed, wordReservedZero, wordOpDefined, Bool.and_eq_true, beq_iff_eq, decide_eq_true_eq] at h
  obtain ⟨hz, h1, h6⟩ := h
  obtain ⟨i, ho⟩ := exists_decodeOp h1 h6
  exact ⟨i, decode_ok_iff_fields.mpr ⟨hz, ho⟩⟩

end Sys2Proof

namespace Sys2Proof.Machine

/-- Settles O2: the two fields are the whole word, and the six codes are those from `0x01` to `0x06`. -/
theorem decoderMatchesExactlySixWords : Obligations.DecoderMatchesExactlySixWords := by
  refine ⟨fun v i => decode_ok_iff, fun v hv => ?_, fun v => ⟨?_, exists_decode_of_wordWellFormed⟩⟩
  · cases hd : decode v with
    | ok i => exact absurd (decode_ok_iff.mp hd) (hv i)
    | error r => exact ⟨r, rfl⟩
  · rintro ⟨i, hd⟩
    rw [decode_ok_iff.mp hd]
    exact wordWellFormed_encode i

/-- Settles O1: the model's own lemma for each command. -/
theorem commandWordsDecode : Obligations.CommandWordsDecode :=
  ⟨decode_loadIv, decode_compress, decode_process, decode_storeDigest, decode_hash, decode_hmac⟩

/-! ## The step that meets a command's word (R20, R45) -/

theorem commandOf_cmd {v : Word} {i : Instr} (h : decode v = .ok i) : commandOf 0 v = some i := by
  simp [commandOf, h, Except.toOption]

theorem step_command {s : State} {v : Word} {i : Instr} {rest : List Move} (h : s.host = .write 0 v :: rest)
    (hd : decode v = .ok i) : step s = exec i { s with host := rest } := by
  have hi : issuedBy (boundMove s.platform (.write 0 v)) = some i := commandOf_cmd hd
  simp only [step, h, hi]

theorem withFetchWord_encode (s : State) (i : Instr) :
    (s.withFetchWord 32 (encode i).toNat).host = .write 0 (encode i) :: s.host := by
  have hlt : (encode i).toNat < 2 ^ 32 := (encode i).isLt
  rw [State.withFetchWord, Nat.mod_eq_of_lt hlt, BitVec.ofNat_toNat, BitVec.setWidth_eq]

/-- Settles O3: a command's word at index 0 issues that command, and `withFetchWord` places that word. -/
theorem stepRunsTheCommandWritten : Obligations.StepRunsTheCommandWritten :=
  ⟨fun _ _ _ _ => step_command, fun s i => step_command (withFetchWord_encode s i) (decode_encode i)⟩

end Sys2Proof.Machine
end

section
/-! PROOFS. The word functions (R55 to R57, R59 to R64), the length arithmetic (R67), the constants (R65, R66) and the
serialisers (R68, R91). -/

namespace Sys2Proof.Machine

/-! ## Addition (R55) -/

theorem add32_eq_sum (xs : List Word) : add32 xs = xs.sum := rfl

theorem add32_cons (x : Word) (xs : List Word) : add32 (x :: xs) = x + add32 xs := rfl

theorem toNat_add32 (xs : List Word) : (add32 xs).toNat = (xs.map BitVec.toNat).sum % 2 ^ 32 := by
  induction xs with
  | nil => rfl
  | cons x xs ih => rw [add32_cons, BitVec.toNat_add, ih, List.map_cons, List.sum_cons, Nat.add_mod_mod]

theorem add32_perm {xs ys : List Word} (h : xs.Perm ys) : add32 xs = add32 ys := by
  rw [add32_eq_sum, add32_eq_sum, h.sum_eq]

theorem add32_append (xs ys : List Word) : add32 (xs ++ ys) = add32 xs + add32 ys := by
  simp only [add32_eq_sum, List.sum_append]

theorem add32_pair (x y : Word) : add32 [x, y] = x + y := congrArg (x + ·) (BitVec.add_zero y)

/-- Settles O4: `add32` is the sum of the list, and the list's sum knows neither order nor grouping. -/
theorem add32IsSumModuloTwoPow32 : Obligations.Add32IsSumModuloTwoPow32 :=
  ⟨toNat_add32, fun _ _ => add32_perm, fun xs ys => (add32_pair _ _).trans (add32_append xs ys).symm,
    rfl, rfl, fun x => (add32_pair x 0).trans (BitVec.add_zero x), rfl⟩

/-! ## Rotation and shift (R56, R57) -/

theorem rotr_eq_or (x : Word) {n : Nat} (hn : n < 32) : rotr x n = (x >>> n ||| x <<< (32 - n)) := by
  rw [rotr, BitVec.rotateRight_def, Nat.mod_eq_of_lt hn]

@[simp] theorem getLsbD_rotr (x : Word) (n : Nat) {i : Nat} (hi : i < 32) :
    (rotr x n).getLsbD i = x.getLsbD ((i + n) % 32) := by
  rw [rotr, BitVec.getLsbD_rotateRight]
  by_cases h : i < 32 - n % 32
  · rw [decide_eq_true h, cond_true]
    congr 1
    omega
  · rw [decide_eq_false h, cond_false, decide_eq_true hi, Bool.true_and]
    congr 1
    omega

@[simp] theorem getLsbD_shr (x : Word) (n i : Nat) : (shr x n).getLsbD i = x.getLsbD (i + n) := by
  rw [shr, BitVec.getLsbD_ushiftRight, Nat.add_comm]

theorem toNat_shr (x : Word) (n : Nat) : (shr x n).toNat = x.toNat / 2 ^ n := by
  rw [shr, BitVec.toNat_ushiftRight, Nat.shiftRight_eq_div_pow]

/-- Settles O5: a rotation is its two shifts, and takes bit `i` from bit `i + n`. -/
theorem rotrMovesEveryBit : Obligations.RotrMovesEveryBit :=
  ⟨fun x n _ hn => ⟨rotr_eq_or x (Nat.lt_succ_of_le hn), fun _ => getLsbD_rotr x n⟩, by decide, by decide⟩

/-- Settles O6: a bit the shift brings in at the top would be one above the word's 32. -/
theorem shrIsUnsignedDivision : Obligations.ShrIsUnsignedDivision := by
  refine ⟨fun x n => ⟨toNat_shr x n, fun i hi => ?_⟩, by decide, by decide⟩
  rw [getLsbD_shr]
  exact BitVec.getLsbD_of_ge x (i + n) (by omega)

/-! ## The sigma functions (R59 to R62) -/

/-- Settles O7: an exclusive or is taken bit by bit, and rotations and shifts move bits. -/
theorem sigmasBitByBit : Obligations.SigmasBitByBit := by
  refine ⟨fun x i hi => ?_, fun x => ⟨rfl, rfl, rfl, rfl⟩, ?_⟩
  · simp only [ssig0, ssig1, bsig0, bsig1, BitVec.getLsbD_xor, getLsbD_rotr _ _ hi, getLsbD_shr, and_self]
  · decide

/-! ## Choice and majority (R63, R64) -/

theorem getLsbD_ch (x y z : Word) (i : Nat) :
    (ch x y z).getLsbD i = if x.getLsbD i then y.getLsbD i else z.getLsbD i := by
  simp only [ch, BitVec.getLsbD_xor, BitVec.getLsbD_and, BitVec.getLsbD_not]
  by_cases hi : i < 32
  · cases x.getLsbD i <;> simp [hi]
  · have above (w : Word) : w.getLsbD i = false := BitVec.getLsbD_of_ge w i (Nat.le_of_not_lt hi)
    simp [above]

theorem ch_ones (y z : Word) : ch (BitVec.allOnes 32) y z = y := by
  rw [ch, BitVec.allOnes_and, BitVec.not_allOnes, BitVec.zero_and, BitVec.xor_zero]

theorem ch_zero (y z : Word) : ch 0#32 y z = z := by
  rw [ch, BitVec.zero_and, BitVec.not_zero, BitVec.allOnes_and, BitVec.zero_xor]

/-- The exclusive or of the three pairwise conjunctions is the majority. -/
theorem xor_of_ands_eq_majority (a b c : Bool) : ((a && b) ^^ (a && c) ^^ (b && c)) = (a && b || a && c || b && c) := by
  decide +revert

theorem getLsbD_maj (x y z : Word) (i : Nat) : (maj x y z).getLsbD i =
    ((x.getLsbD i && y.getLsbD i) || (x.getLsbD i && z.getLsbD i) || (y.getLsbD i && z.getLsbD i)) := by
  simp only [maj, BitVec.getLsbD_xor, BitVec.getLsbD_and, xor_of_ands_eq_majority]

theorem maj_swap_left (x y z : Word) : maj x y z = maj y x z := by
  unfold maj
  ac_rfl

theorem maj_swap_right (x y z : Word) : maj x y z = maj x z y := by
  unfold maj
  ac_rfl

theorem maj_self_left (x z : Word) : maj x x z = x := by
  rw [maj, BitVec.and_self, BitVec.xor_assoc, BitVec.xor_self, BitVec.xor_zero]

theorem maj_zero_left (y z : Word) : maj 0#32 y z = y &&& z := by
  rw [maj, BitVec.zero_and, BitVec.zero_and, BitVec.xor_self, BitVec.zero_xor]

/-- Settles O8: both functions act on each bit alone. -/
theorem chSelectsAndMajIsMajority : Obligations.ChSelectsAndMajIsMajority :=
  ⟨fun _ _ _ => rfl, getLsbD_ch, fun y z => ⟨ch_ones y z, ch_zero y z⟩, by decide, fun _ _ _ => rfl, getLsbD_maj,
    fun x y z => ⟨maj_swap_left x y z, maj_swap_right x y z⟩, fun x y z => ⟨maj_self_left x z, maj_zero_left y z⟩,
    by decide⟩

/-! ## The serialisers (R68, R91) -/

theorem toNat_be32 (b0 b1 b2 b3 : Byte) : (be32 b0 b1 b2 b3).toNat =
    b0.toNat * 2 ^ 24 + b1.toNat * 2 ^ 16 + b2.toNat * 2 ^ 8 + b3.toNat := by
  have append {n : Nat} (x : BitVec n) (b : Byte) : (x ++ b).toNat = x.toNat * 2 ^ 8 + b.toNat := by
    rw [BitVec.toNat_append, ← Nat.shiftLeft_add_eq_or_of_lt b.isLt, Nat.shiftLeft_eq]
  rw [be32, append, append, append]
  omega

theorem toNat_byteOfWord (w : Word) (m : Nat) : (byteOfWord w m).toNat = w.toNat / 2 ^ (24 - 8 * m) % 256 := by
  rw [byteOfWord, BitVec.extractLsb'_toNat, Nat.shiftRight_eq_div_pow]

theorem toNat_byteOfSize (v : Size) (k : Nat) : (byteOfSize v k).toNat = v.toNat / 2 ^ (56 - 8 * k) % 256 := by
  rw [byteOfSize, BitVec.extractLsb'_toNat, Nat.shiftRight_eq_div_pow]

@[simp] theorem bytes32_get (w : Word) (m : Nat) (hm : m < 4) : (bytes32 w)[m] = byteOfWord w m := by
  simp [bytes32]

@[simp] theorem bytes64_get (v : Size) (k : Nat) (hk : k < 8) : (bytes64 v)[k] = byteOfSize v k := by
  simp [bytes64]

theorem be32_byteOfWord (w : Word) :
    be32 (byteOfWord w 0) (byteOfWord w 1) (byteOfWord w 2) (byteOfWord w 3) = w := by
  have hw := w.isLt
  apply BitVec.eq_of_toNat_eq
  simp only [toNat_be32, toNat_byteOfWord]
  omega

theorem bytes32_be32 (b0 b1 b2 b3 : Byte) : bytes32 (be32 b0 b1 b2 b3) = #v[b0, b1, b2, b3] :=
  Vector.ext fun m hm => (bytes32_get _ m hm).trans (byteOfWord_be32 b0 b1 b2 b3 m hm)

/-- Byte `4 k + m` of a serialised state is byte `m` of word `k` (R91). -/
theorem ser_get_word (S : Hash) (k m : Nat) (hk : k < 8) (hm : m < 4) : (ser S)[4 * k + m] = byteOfWord S[k] m := by
  have hdiv : (4 * k + m) / 4 = k := by omega
  have hmod : (4 * k + m) % 4 = m := by omega
  simp [serByte, hdiv, hmod, show 4 * k + m < 32 by omega]

/-- Settles O12: the bytes by their values, and `ser` by the bytes of its words. -/
theorem serialisersAreBigEndianInverses : Obligations.SerialisersAreBigEndianInverses := by
  refine ⟨toNat_be32, fun w m hm => ?_, fun v k hk => ?_, be32_byteOfWord, bytes32_be32, by decide, by decide,
    fun S k m hk hm => ⟨ser_get_word S k m hk hm, ?_⟩, fun S h0 => ?_⟩
  · rw [bytes32_get, toNat_byteOfWord]
  · rw [bytes64_get, toNat_byteOfSize]
  · rw [ser_get_word S k m hk hm, bytes32_get]
  · have word (m : Nat) (hm : m < 4) : (ser S)[m] = byteOfWord 0xBA7816BF m := by
      have h := ser_get_word S 0 m (by decide) hm
      simpa only [Nat.mul_zero, Nat.zero_add, h0] using h
    exact ⟨word 0 (by decide), word 1 (by decide), word 2 (by decide), word 3 (by decide)⟩

/-! ## Length arithmetic (R67) -/

/-- Settles O10: every value stays below its register's modulus. -/
theorem lengthArithmeticDoesNotWrap : Obligations.LengthArithmeticDoesNotWrap := by
  intro L O h
  have hblocks : nblocks L < 2 ^ 56 := nblocks_lt_of_le_maxTotal (Nat.le_of_add_right_le h)
  have htotal : L + O ≤ 2 ^ 61 - 1 := h
  refine ⟨by omega, Nat.mod_eq_of_lt hblocks, Nat.mod_eq_of_lt (?_ : (L + O) * 8 < 2 ^ 64)⟩
  omega

/-! ## The constants (R65, R66) -/

/-- The primes whose roots the tables of R65 and R66 hold. -/
def rootPrimes : List Nat :=
  [2, 3, 5, 7, 11, 13, 17, 19, 23, 29, 31, 37, 41, 43, 47, 53, 59, 61, 67, 71, 73, 79, 83, 89, 97, 101, 103, 107, 109,
    113, 127, 131, 137, 139, 149, 151, 157, 163, 167, 173, 179, 181, 191, 193, 197, 199, 211, 223, 227, 229, 233, 239,
    241, 251, 257, 263, 269, 271, 277, 281, 283, 293, 307, 311]

/-- The trial division of O11 finds the primes below 312. -/
theorem trialDivision_eq_rootPrimes : ((List.range 312).filter fun p =>
    decide (2 ≤ p) && (List.range p).all fun d => decide (d < 2) || decide (p % d ≠ 0)) = rootPrimes := by
  decide +kernel

/-- `c` is the first 32 bits of the fractional part of the `k`-th root of `p`, whose integer part is below `bound`. -/
def IsRootFraction (k bound : Nat) (p : Nat) (c : Word) : Prop :=
  ∃ n, n < bound ∧ (n * 2 ^ 32 + c.toNat) ^ k ≤ p * 2 ^ (32 * k) ∧ p * 2 ^ (32 * k) < (n * 2 ^ 32 + c.toNat + 1) ^ k

theorem constantRow_isCubeRootFraction : ∀ t < 64,
    IsRootFraction 3 7 (rootPrimes[t]?.getD 0) (rowWord (constantRow (t / 8)) (t % 8)) := by
  unfold IsRootFraction
  decide +kernel

theorem IV_isSquareRootFraction : ∀ (i : Nat) (h : i < 8), IsRootFraction 2 5 (rootPrimes[i]?.getD 0) IV[i] := by
  unfold IsRootFraction
  decide +kernel

/-- Settles O11: the primes found by trial division, and each row of the two tables against its prime. -/
theorem constantsAreRootFractions : Obligations.ConstantsAreRootFractions := by
  unfold Obligations.ConstantsAreRootFractions
  rw [trialDivision_eq_rootPrimes]
  refine ⟨rfl, fun t ht => ?_, IV_isSquareRootFraction⟩
  rw [K_get t ht]
  exact constantRow_isCubeRootFraction t ht

end Sys2Proof.Machine
end

section
/-! PROOFS. The compression engine (R70 to R74, R76) and the command `COMPRESS` (R75). -/

namespace Sys2Proof.Machine

/-! ## Schedule expansion (R70) -/

/-- Expansion from `t` leaves every word it writes in the recurrence with the words it leaves below. -/
theorem expandFrom_recurrence (n t : Nat) (w : Schedule) (k : Nat) (ht : 16 ≤ t) (htk : t ≤ k) (hkn : k < t + n)
    (hk : k < 64) : (expandFrom n t w)[k] = add32 [(expandFrom n t w)[k - 16], (expandFrom n t w)[k - 7],
      ssig0 (expandFrom n t w)[k - 15], ssig1 (expandFrom n t w)[k - 2]] := by
  induction n generalizing t w with
  | zero => omega
  | succ n ih =>
    by_cases hkt : k = t
    · subst hkt
      have kept (j : Nat) (hj : j < k) : (expandFrom (n + 1) k w)[j] = w[j] := expandFrom_below _ _ _ _ _ hj
      have written : (expandFrom (n + 1) k w)[k] = (expandAt w k)[k] := expandFrom_below n (k + 1) _ k hk (by omega)
      rw [written, expandAt_same w k ⟨ht, hk⟩, kept _ (by omega), kept _ (by omega), kept _ (by omega),
        kept _ (by omega)]
    · exact ih (t + 1) (expandAt w t) (by omega) (by omega) (by omega)

theorem expand_recurrence (w : Schedule) (t : Nat) (h : 16 ≤ t ∧ t < 64) : (expand w)[t] =
    add32 [(expand w)[t - 16], (expand w)[t - 7], ssig0 (expand w)[t - 15], ssig1 (expand w)[t - 2]] :=
  expandFrom_recurrence 48 16 w t (by decide) h.1 h.2 h.2

theorem expand_below (w : Schedule) (t : Nat) (h : t < 16) : (expand w)[t] = w[t] :=
  expandFrom_below 48 16 w t (by omega) h

theorem expand_congr {w w' : Schedule} (h : ∀ (t : Nat) (h : t < 16), w[t] = w'[t]) : expand w = expand w' :=
  expandFrom_congr 48 16 (by decide) rfl w w' h

/-- The recurrence with the values of its four words put in. -/
theorem expand_of_words {w : Schedule} (t : Nat) (h : 16 ≤ t ∧ t < 64) {x16 x7 x15 x2 : Word}
    (h16 : (expand w)[t - 16] = x16) (h7 : (expand w)[t - 7] = x7) (h15 : (expand w)[t - 15] = x15)
    (h2 : (expand w)[t - 2] = x2) : (expand w)[t] = add32 [x16, x7, ssig0 x15, ssig1 x2] := by
  rw [expand_recurrence w t h, h16, h7, h15, h2]

theorem expand_zeros {w : Schedule} (h0 : ∀ (t : Nat) (h : t < 16), w[t] = 0) (t : Nat) (h : t < 64) :
    (expand w)[t] = 0 := by
  induction t using Nat.strongRecOn with
  | ind t ih =>
    by_cases ht : t < 16
    · exact (expand_below w t ht).trans (h0 t ht)
    · exact expand_of_words t ⟨by omega, h⟩ (ih _ (by omega) (by omega)) (ih _ (by omega) (by omega))
        (ih _ (by omega) (by omega)) (ih _ (by omega) (by omega))

/-- The corner case of all ones (R70): each word is the value of the recurrence at words already known. -/
theorem expand_ones {w : Schedule} (h1 : ∀ (t : Nat) (h : t < 16), w[t] = 0xFFFFFFFF) :
    (expand w)[16] = 0x203FFFFC ∧ (expand w)[17] = 0x203FFFFC ∧
      (expand w)[18] = 0x20099BE4 ∧ (expand w)[19] = 0x20099BE4 := by
  have one (t : Nat) (h : t < 16) : (expand w)[t] = 0xFFFFFFFF := (expand_below w t h).trans (h1 t h)
  have e16 : (expand w)[16] = 0x203FFFFC :=
    expand_of_words 16 (by decide) (one 0 (by decide)) (one 9 (by decide)) (one 1 (by decide)) (one 14 (by decide))
  have e17 : (expand w)[17] = 0x203FFFFC :=
    expand_of_words 17 (by decide) (one 1 (by decide)) (one 10 (by decide)) (one 2 (by decide)) (one 15 (by decide))
  exact ⟨e16, e17,
    expand_of_words 18 (by decide) (one 2 (by decide)) (one 11 (by decide)) (one 3 (by decide)) e16,
    expand_of_words 19 (by decide) (one 3 (by decide)) (one 12 (by decide)) (one 4 (by decide)) e17⟩

/-- The first two expanded words of the block of "abc", the example of R70. -/
theorem expand_abc {w : Schedule} (h0 : w[0] = 0x61626380) (hz : ∀ (t : Nat) (h : 1 ≤ t ∧ t < 15), w[t] = 0)
    (h15 : w[15] = 0x00000018) : (expand w)[16] = 0x61626380 ∧ (expand w)[17] = 0x000F0000 := by
  have zero (t : Nat) (h : 1 ≤ t ∧ t < 15) : (expand w)[t] = 0 := (expand_below w t (by omega)).trans (hz t h)
  have e0 : (expand w)[0] = 0x61626380 := (expand_below w 0 (by decide)).trans h0
  have e15 : (expand w)[15] = 0x00000018 := (expand_below w 15 (by decide)).trans h15
  exact ⟨
    expand_of_words 16 (by decide) e0 (zero 9 (by decide)) (zero 1 (by decide)) (zero 14 (by decide)),
    expand_of_words 17 (by decide) (zero 1 (by decide)) (zero 10 (by decide)) (zero 2 (by decide)) e15⟩

/-- Settles O14: each assignment leaves its word in the recurrence, and no later one writes a word of that recurrence. -/
theorem expansionRecurrence : Obligations.ExpansionRecurrence :=
  ⟨expand_recurrence, expand_below, fun _ _ => expand_congr, fun _ => expand_zeros, fun _ => expand_ones,
    fun _ => expand_abc⟩

/-! ## One compression (R71 to R74, R76) -/

theorem roundsFrom_eq_foldl (w : Schedule) (n t : Nat) (v : Working) :
    roundsFrom w n t v = (List.range' t n).foldl (fun v t => roundAt w t v) v := by
  induction n generalizing t v with
  | zero => rfl
  | succ n ih => rw [roundsFrom, ih, List.range'_succ, List.foldl_cons]

theorem roundAt_eq (w : Schedule) (t : Nat) (h : t < 64) (v : Working) :
    roundAt w t v = roundWith K[t] w[t] v := dif_pos h

/-- Settles O15: the rounds are a fold over their numbers, and a sum of two words is `+`. -/
theorem compressBlockIsSixtyFourRounds : Obligations.CompressBlockIsSixtyFourRounds := by
  refine ⟨fun S w => ⟨rfl, ?_, rfl⟩, fun S => ⟨rfl, rfl, rfl, rfl, rfl, rfl, rfl, rfl⟩, fun S w => ?_,
    fun w t h v => ?_⟩
  · rw [List.range_eq_range']
    exact roundsFrom_eq_foldl (expand w) 64 0 (initWorking S)
  · exact ⟨add32_pair _ _, add32_pair _ _, add32_pair _ _, add32_pair _ _, add32_pair _ _, add32_pair _ _,
      add32_pair _ _, add32_pair _ _⟩
  · simp only [roundAt_eq w t h, roundWith, add32_pair]

theorem compressBlock_congr (S : Hash) {w w' : Schedule} (h : ∀ (t : Nat) (h : t < 16), w[t] = w'[t]) :
    compressBlock S w = compressBlock S w' := by
  simp only [compressBlock, expand_congr h]

/-- The new state does not depend on the schedule the block is loaded into (R76). -/
theorem compressBlock_loadBlock_H (S : Hash) (B : Block) (w : Schedule) :
    (compressBlock S (loadBlock B w)).H = CB S B := by
  have same : compressBlock S (loadBlock B w) = compressBlock S (loadBlock B scratchSchedule) :=
    compressBlock_congr S fun t h => (loadBlock_block B w t h).trans (loadBlock_block B scratchSchedule t h).symm
  exact congrArg Compressed.H same

/-- Settles O16: a compression reads its schedule through `expand` alone. -/
theorem compressionDependsOnStateAndBlockAlone : Obligations.CompressionDependsOnStateAndBlockAlone :=
  ⟨fun S _ _ => compressBlock_congr S, compressBlock_loadBlock_H⟩

/-! ## The command `COMPRESS` (R75) -/

/-- `COMPRESS` has no operand to check: an idle block runs it. -/
theorem exec_compress_idle (s : State) (hi : isIdle s = true) :
    exec .compress s = .next (runCompress (accept .compress s)) :=
  issue_accepted .compress runCompress s hi rfl rfl

/-- Settles O26: `COMPRESS` is one compression of what stands in `H` and `W`, and completes. -/
theorem compressCompressesTheBlockInW : Obligations.CompressCompressesTheBlockInW := by
  intro s hi
  have hW : (runCompress (accept .compress s)).W = expand s.W := rfl
  exact ⟨_, exec_compress_idle s hi, rfl, hW, fun k h => by simp only [hW, expand_below s.W k h],
    runCommand_completes .compress (accept .compress s), runCommand_sameOutside .compress (accept .compress s),
    rfl, rfl, rfl, rfl⟩

end Sys2Proof.Machine
end

section
/-! PROOFS. The padder (R67, R80, R81, R83, R85, R86): the blocks of a run, the bytes of the padded sequence, the
continuation law; and the command `PROCESS` (R84). -/

namespace Sys2Proof.Machine

/-! ## The blocks of a run (R67, R80) -/

/-- `nblocks L` is the least number of 64-byte blocks that hold the data, the terminator and the trailer. -/
theorem nblocks_bounds (L : Nat) :
    L + 9 ≤ 64 * nblocks L ∧ 64 * nblocks L < L + 9 + 64 ∧ 1 ≤ nblocks L := by
  unfold nblocks
  omega

theorem nblocks_block_add (L : Nat) : nblocks (64 + L) = nblocks L + 1 := by
  unfold nblocks
  omega

theorem padRunFrom_eq_foldl (src : Nat → Byte) (L O n i : Nat) (S : Hash) :
    padRunFrom src L O n i S = (List.range' i n).foldl (fun T i => CB T (paddedBlock src L O i)) S := by
  induction n generalizing i S with
  | zero => rfl
  | succ n ih => rw [padRunFrom, ih, List.range'_succ, List.foldl_cons]

/-- Settles O9: the run is a fold over the block numbers, and the bounds of `nblocks` are arithmetic. -/
theorem padderRunIsNblocksCompressions : Obligations.PadderRunIsNblocksCompressions := by
  refine ⟨fun S src L O => ?_, nblocks_bounds, by decide⟩
  rw [List.range_eq_range']
  exact padRunFrom_eq_foldl src L O (nblocks L) 0 S

/-! ## The bytes of the padded sequence (R81, R85) -/

section Bytes

variable {src : Nat → Byte} {L O i j : Nat}

theorem paddedByte_trailer (hi : i + 1 = nblocks L) (hj : 56 ≤ j) :
    paddedByte src L O i j = byteOfSize (BitVec.ofNat 64 (bitlen L O)) (j - 56) := if_pos ⟨hi, hj⟩

theorem paddedByte_body (h : ¬ (i + 1 = nblocks L ∧ 56 ≤ j)) : paddedByte src L O i j =
    if 64 * i + j < L then src (64 * i + j) else if 64 * i + j = L then terminator else 0x00 := if_neg h

/-- The trailer begins above the terminator (R85). -/
theorem length_lt_of_trailer (hi : i + 1 = nblocks L) (hj : 56 ≤ j) : L < 64 * i + j := by
  have ⟨hfits, _, _⟩ := nblocks_bounds L
  omega

theorem paddedByte_data (h : 64 * i + j < L) : paddedByte src L O i j = src (64 * i + j) := by
  have hbody : ¬ (i + 1 = nblocks L ∧ 56 ≤ j) := fun ⟨hi, hj⟩ => Nat.lt_asymm h (length_lt_of_trailer hi hj)
  rw [paddedByte_body hbody, if_pos h]

/-- A byte of the run's blocks by its place in the padded sequence: R81's order of tests and R85's order of places
agree. -/
theorem paddedByte_by_place (hi : i < nblocks L) (hj : j < 64) : paddedByte src L O i j =
    if 64 * i + j < L then src (64 * i + j)
    else if 64 * i + j = L then terminator
    else if 64 * i + j < 64 * nblocks L - 8 then 0x00
    else byteOfSize (BitVec.ofNat 64 (bitlen L O)) (64 * i + j - (64 * nblocks L - 8)) := by
  by_cases htrailer : i + 1 = nblocks L ∧ 56 ≤ j
  · obtain ⟨hlast, h56⟩ := htrailer
    have habove : L < 64 * i + j := length_lt_of_trailer hlast h56
    have hplace : 64 * i + j - (64 * nblocks L - 8) = j - 56 := by omega
    rw [paddedByte_trailer hlast h56, if_neg (by omega), if_neg (by omega), if_neg (by omega), hplace]
  · have hbelow : 64 * i + j < 64 * nblocks L - 8 := by omega
    rw [paddedByte_body htrailer, if_pos hbelow]

end Bytes

/-- Settles O17: byte `g` of the sequence is byte `g mod 64` of block `g div 64`. -/
theorem paddedSequenceLayout : Obligations.PaddedSequenceLayout := by
  intro src L O g hg
  have hplace : 64 * (g / 64) + g % 64 = g := Nat.div_add_mod g 64
  have hblock : g / 64 < nblocks L := Nat.div_lt_of_lt_mul hg
  rw [paddedBlock_get, paddedByte_by_place hblock (Nat.mod_lt g (by decide)), hplace]
  rfl

/-! ## The zero-length input (R86) -/

theorem paddedBlock_empty_get (src : Nat → Byte) (O j : Nat) (h : j < 64) : (paddedBlock src 0 O 0)[j] =
    if j = 0 then 0x80 else if j < 56 then 0x00 else byteOfSize (BitVec.ofNat 64 (8 * O)) (j - 56) := by
  have hbits : bitlen 0 O = 8 * O := by
    unfold bitlen
    omega
  have hplace : 64 * 0 + j = j := by omega
  rw [paddedBlock_get, paddedByte_by_place (by decide) h, hplace, hbits, if_neg (Nat.not_lt_zero j)]
  rfl

theorem byteOfSize_zero (k : Nat) : byteOfSize 0 k = 0 := BitVec.extractLsb'_zero

/-- Every byte of the empty message's block but the first is zero: its bit count is 0. -/
theorem paddedBlock_empty_get_zero (src : Nat → Byte) (j : Nat) (h0 : j ≠ 0) (h : j < 64) :
    (paddedBlock src 0 0 0)[j] = 0 := by
  rw [paddedBlock_empty_get, if_neg h0]
  split
  · rfl
  · exact byteOfSize_zero (j - 56)

theorem loadBlock_empty_first (src : Nat → Byte) (w : Schedule) :
    (loadBlock (paddedBlock src 0 0 0) w)[0] = 0x80000000 := by
  rw [loadBlock_block _ w 0 (by decide), paddedBlock_empty_get, paddedBlock_empty_get_zero src (4 * 0 + 1) (by decide),
    paddedBlock_empty_get_zero src (4 * 0 + 2) (by decide), paddedBlock_empty_get_zero src (4 * 0 + 3) (by decide)]
  rfl

theorem loadBlock_empty_rest (src : Nat → Byte) (w : Schedule) (t : Nat) (h : 1 ≤ t ∧ t < 16) :
    (loadBlock (paddedBlock src 0 0 0) w)[t] = 0 := by
  have zero (m : Nat) (hm : m < 4) : (paddedBlock src 0 0 0)[4 * t + m] = 0 :=
    paddedBlock_empty_get_zero src (4 * t + m) (by omega) (by omega)
  rw [loadBlock_block _ w t h.2, zero 1 (by decide), zero 2 (by decide), zero 3 (by decide),
    paddedBlock_empty_get_zero src (4 * t) (by omega)]
  rfl

/-- Settles O18: the layout at length 0; a source of no bytes cannot differ from another. -/
theorem zeroLengthInputIsOneBlock : Obligations.ZeroLengthInputIsOneBlock := by
  refine ⟨rfl, fun src O j h => ?_, fun src src' S O => ?_,
    fun src w => ⟨loadBlock_empty_first src w, loadBlock_empty_rest src w⟩⟩
  · rw [paddedBlock_empty_get]
    simp only [bytes64_get]
  · exact PS_congr S O fun g hg => absurd hg (Nat.not_lt_zero g)

/-! ## The continuation law (R83) -/

section Continuation

variable (B : Block) (src : Nat → Byte) (L : Nat)

theorem prependBlock_below (g : Nat) (h : g < 64) : prependBlock B src g = B[g] := dif_pos h

theorem prependBlock_block_add (g : Nat) : prependBlock B src (64 + g) = src g := by
  rw [prependBlock, dif_neg (by omega), Nat.add_sub_cancel_left]

/-- The first block of the joined sequence is `B` itself: it holds data alone. -/
theorem paddedBlock_prepend_zero : paddedBlock (prependBlock B src) (64 + L) 0 0 = B := by
  ext j hj : 1
  have hdata : 64 * 0 + j < 64 + L := by omega
  rw [paddedBlock_get, paddedByte_data hdata, Nat.zero_add]
  exact prependBlock_below B src j hj

/-- Every later block is the block one place earlier of `src` alone, with `B` counted by the offset. -/
theorem paddedBlock_prepend_succ (i : Nat) :
    paddedBlock (prependBlock B src) (64 + L) 0 (i + 1) = paddedBlock src L 64 i := by
  ext j hj : 1
  have hlast : i + 1 + 1 = nblocks (64 + L) ↔ i + 1 = nblocks L := by rw [nblocks_block_add, Nat.add_left_inj]
  have hbits : bitlen (64 + L) 0 = bitlen L 64 := by
    unfold bitlen
    omega
  have hplace : 64 * (i + 1) + j = 64 + (64 * i + j) := by omega
  simp only [paddedBlock_get, paddedByte, hlast, hbits, hplace, prependBlock_block_add, Nat.add_lt_add_iff_left,
    Nat.add_right_inj]

theorem padRunFrom_prepend (n i : Nat) (S : Hash) :
    padRunFrom (prependBlock B src) (64 + L) 0 n (i + 1) S = padRunFrom src L 64 n i S := by
  induction n generalizing i S with
  | zero => rfl
  | succ n ih => rw [padRunFrom, padRunFrom, paddedBlock_prepend_succ, ih]

end Continuation

/-- Settles O20: the joined run compresses `B` first, and its other blocks are those of the continued run. -/
theorem continuationLaw : Obligations.ContinuationLaw := by
  intro S B src L
  calc PS (CB S B) src L 64
      = padRunFrom (prependBlock B src) (64 + L) 0 (nblocks L) 1 (CB S B) :=
        (padRunFrom_prepend B src L (nblocks L) 0 (CB S B)).symm
    _ = padRunFrom (prependBlock B src) (64 + L) 0 (nblocks L + 1) 0 S := by
        rw [padRunFrom, paddedBlock_prepend_zero]
    _ = PS S (prependBlock B src) (64 + L) 0 := by rw [PS, nblocks_block_add]

/-! ## The command `PROCESS` (R84) -/

/-- `PROCESS` runs when its checks pass (R87, R38). -/
theorem exec_process_accepted (s : State) (hi : isIdle s = true)
    (hl : s.dataLen.toNat + s.offset.toNat ≤ 2 ^ 61 - 1) (hd : s.dataLen.toNat ≤ s.platform.dataCap) :
    exec .process s = .next (runProcess (accept .process s)) :=
  issue_accepted .process runProcess s hi ((lengthOk_process s).2 hl) ((rangeOk_process s).2 hd)

theorem runProcess_accept_H (s : State) : (runProcess (accept .process s)).H =
    PS s.H s.data.read s.dataLen.toNat s.offset.toNat := by
  simp [runProcess, accept_process_latch, spaceBytes]

/-- Settles O27: the accepted command runs the padder over what it latched, and completes. -/
theorem processRunsThePadderFromH : Obligations.ProcessRunsThePadderFromH := by
  intro s hi hl hd
  exact ⟨_, exec_process_accepted s hi hl hd, runProcess_accept_H s,
    runCommand_completes .process (accept .process s), runCommand_sameOutside .process (accept .process s),
    rfl, rfl, rfl⟩

end Sys2Proof.Machine
end

section
/-! PROOFS. The digest commands `LOAD_IV`, `STORE_DIGEST` and `HASH` (R90, R92, R93): completion, result and frame;
`HASH` as its three part commands (R93), and the truncation law of `HASH` and `HMAC` (R94). -/

namespace Sys2Proof.Machine

/-! ## From acceptance to completion (R45) -/

theorem runCommand_accept_completes (i : Instr) (s : State) : CompletedFrom s (runCommand i (accept i s)) := by
  simpa [CompletedFrom] using runCommand_completes i (accept i s)

theorem runCommand_accept_sameOutside (i : Instr) (s : State) : SameOutside s (runCommand i (accept i s)) := by
  simpa [SameOutside] using runCommand_sameOutside i (accept i s)

/-- A completed command leaves an idle block idle, so the next command can be issued (R45). -/
theorem isIdle_runCommand_accept (i : Instr) {s : State} (hi : isIdle s = true) :
    isIdle (runCommand i (accept i s)) = true := by
  obtain ⟨hbusy, -, hfault, -, -⟩ := runCommand_accept_completes i s
  simp_all [isIdle]

/-! ## `LOAD_IV` (R90) -/

/-- `LOAD_IV` has no operand to check: an idle block runs it. -/
theorem exec_loadIv_idle (s : State) (hi : isIdle s = true) :
    exec .loadIv s = .next (runLoadIv (accept .loadIv s)) :=
  issue_accepted .loadIv runLoadIv s hi rfl rfl

/-- Settles O25: the accepted command leaves `IV` in `H`, and the block it leaves is idle, so `H` reads back. -/
theorem loadIvSetsH : Obligations.LoadIvSetsH := by
  intro s hi
  have hidle : isIdle (runLoadIv (accept .loadIv s)) = true := isIdle_runCommand_accept .loadIv hi
  have first : IV[0] = 0x6A09E667 := by decide
  have last : IV[7] = 0x5BE0CD19 := by decide
  exact ⟨_, exec_loadIv_idle s hi, fun _ _ => rfl, runCommand_accept_completes .loadIv s,
    runCommand_accept_sameOutside .loadIv s, rfl, rfl, rfl, rfl, rfl, rfl,
    (readValue_idle (.hash 0) hidle).trans first, (readValue_idle (.hash 7) hidle).trans last⟩

/-! ## `STORE_DIGEST` (R92) -/

/-- `STORE_DIGEST` runs when its range check passes (R38). -/
theorem exec_storeDigest_accepted (s : State) (hi : isIdle s = true) (ho : s.outLen.toNat ≤ s.platform.outCap) :
    exec .storeDigest s = .next (runStoreDigest (accept .storeDigest s)) :=
  issue_accepted .storeDigest runStoreDigest s hi rfl ((rangeOk_storeDigest s).2 ho)

theorem runStoreDigest_accept_out (s : State) : (runStoreDigest (accept .storeDigest s)).out =
    s.out.writeBytes 0 (digestPrefix s.H s.outLen.toNat) := by
  simp [runStoreDigest, accept_storeDigest_latch]

theorem runStoreDigest_accept_stored (s : State) :
    StoredDigest s.H s.outLen.toNat s.out (runStoreDigest (accept .storeDigest s)).out := by
  rw [runStoreDigest_accept_out]
  exact storedDigest_writeBytes _ _ _

/-- A store changes no register of the datapath (R92). -/
theorem runStoreDigest_accept_datapath (s : State) :
    (runStoreDigest (accept .storeDigest s)).H = s.H ∧ (runStoreDigest (accept .storeDigest s)).W = s.W ∧
    (runStoreDigest (accept .storeDigest s)).V = s.V ∧ (runStoreDigest (accept .storeDigest s)).KB = s.KB ∧
    (runStoreDigest (accept .storeDigest s)).IS = s.IS := by
  simp [runStoreDigest, runsPadder, usesEngine]

/-- Settles O28: the accepted command writes the prefix it latched the length of, and completes. -/
theorem storeDigestWritesThePrefix : Obligations.StoreDigestWritesThePrefix := by
  intro s hi ho
  exact ⟨_, exec_storeDigest_accepted s hi ho, runStoreDigest_accept_stored s,
    runCommand_accept_completes .storeDigest s, runCommand_accept_sameOutside .storeDigest s,
    runStoreDigest_accept_datapath s⟩

/-! ## `HASH` (R93) -/

theorem runHash_accept_KB (s : State) : (runHash (accept .hash s)).KB = s.KB := by
  simp [runHash]

theorem runHash_accept_IS (s : State) : (runHash (accept .hash s)).IS = s.IS := by
  simp [runHash]

/-- Settles O29: the accepted command hashes what it latched, stores the prefix, and completes. -/
theorem hashDigestsData : Obligations.HashDigestsData := by
  intro s hi hl hd ho
  exact ⟨_, exec_hash_accepted s hi hl hd ho, runHash_accept_H s, runHash_accept_out s,
    runCommand_accept_completes .hash s, runCommand_accept_sameOutside .hash s, runHash_accept_KB s,
    runHash_accept_IS s⟩

/-- The space `HASH` leaves, byte for byte (`runHash_accept_out` says what it reads as). -/
theorem runHash_accept_out_eq (s : State) : (runHash (accept .hash s)).out =
    s.out.writeBytes 0 (digestPrefix (runHash (accept .hash s)).H s.outLen.toNat) := by
  simp [runHash, accept_hash_latch]

/-- The state R93's second part starts from: `LOAD_IV` has run and the host has set `OFFSET` to 0. -/
def afterLoadIv (s : State) : State := { runLoadIv (accept .loadIv s) with offset := 0 }

/-- The state R93's third part starts from: `PROCESS` has run too. -/
def afterProcess (s : State) : State := runProcess (accept .process (afterLoadIv s))

theorem isIdle_afterLoadIv {s : State} (hi : isIdle s = true) : isIdle (afterLoadIv s) = true :=
  isIdle_runCommand_accept .loadIv hi

theorem isIdle_afterProcess {s : State} (hi : isIdle s = true) : isIdle (afterProcess s) = true :=
  isIdle_runCommand_accept .process (isIdle_afterLoadIv hi)

/-- `PROCESS` starts from the `IV` that `LOAD_IV` left, so its final state is that of `HASH`. -/
theorem afterProcess_H (s : State) : (afterProcess s).H = (runHash (accept .hash s)).H :=
  (runProcess_accept_H (afterLoadIv s)).trans (runHash_accept_H s).symm

/-- The third part stores the prefix `HASH` stores, over the OUT that neither part before it touched. -/
theorem runStoreDigest_afterProcess_out (s : State) :
    (runStoreDigest (accept .storeDigest (afterProcess s))).out = (runHash (accept .hash s)).out :=
  calc (runStoreDigest (accept .storeDigest (afterProcess s))).out
      = s.out.writeBytes 0 (digestPrefix (afterProcess s).H s.outLen.toNat) :=
        runStoreDigest_accept_out (afterProcess s)
    _ = (runHash (accept .hash s)).out := by rw [afterProcess_H, runHash_accept_out_eq]

/-- Settles O31: each part leaves the block idle and the operands of the next one as they were. -/
theorem hashIsItsThreePartCommands : Obligations.HashIsItsThreePartCommands := by
  intro s hi hl hd ho
  exact ⟨_, _, _, _, exec_loadIv_idle s hi, exec_process_accepted (afterLoadIv s) (isIdle_afterLoadIv hi) hl hd,
    exec_storeDigest_accepted (afterProcess s) (isIdle_afterProcess hi) ho, exec_hash_accepted s hi hl hd ho,
    (afterProcess_H s).symm, (runStoreDigest_afterProcess_out s).symm⟩

/-! ## Truncation (R94) -/

/-- A store of `n` bytes of a digest against a full store of the same digest over the same OUT (R37, R94). -/
theorem StoredDigest.truncates {S S' : Hash} {n : Nat} {m t u : Memory} (ht : StoredDigest S n m t)
    (hu : StoredDigest S' 32 m u) (hS : S = S') (hw : m.wf = true) :
    (∀ a, a < min n 32 → t.read a = u.read a) ∧ (∀ a, min n 32 ≤ a → t.read a = m.read a) := by
  subst hS
  obtain ⟨htread, htrest⟩ := ht
  obtain ⟨huread, -⟩ := hu
  exact ⟨fun a ha => (htread hw a ha).trans (huread hw a (ha.trans_le (min_le_right n 32))).symm, htrest⟩

/-- What `HASH` leaves in `H`, `KB` and `IS` does not depend on `OUT_LEN` (R94). -/
theorem runHash_of_outLen (s : State) (n n' : Size) :
    (runHash (accept .hash { s with outLen := n })).H = (runHash (accept .hash { s with outLen := n' })).H ∧
    (runHash (accept .hash { s with outLen := n })).KB = (runHash (accept .hash { s with outLen := n' })).KB ∧
    (runHash (accept .hash { s with outLen := n })).IS = (runHash (accept .hash { s with outLen := n' })).IS := by
  simp only [runHash_accept_H, runHash_accept_KB, runHash_accept_IS, and_self]

/-- Nor does what `HMAC` leaves there: the final state, the key block and the inner state (R94). -/
theorem runHmac_of_outLen (s : State) (n n' : Size) :
    (runHmac (accept .hmac { s with outLen := n })).H = (runHmac (accept .hmac { s with outLen := n' })).H ∧
    (runHmac (accept .hmac { s with outLen := n })).KB = (runHmac (accept .hmac { s with outLen := n' })).KB ∧
    (runHmac (accept .hmac { s with outLen := n })).IS = (runHmac (accept .hmac { s with outLen := n' })).IS := by
  simp only [runHmac_H, runHmac_accept_KB, runHmac_accept_IS, and_self]

/-- Settles O32: `OUT_LEN` reaches only the store, and the two stores are of one digest. -/
theorem truncationLaw : Obligations.TruncationLaw := by
  rintro s n i (rfl | rfl) hi hw hl hd hmac hn hcap
  · obtain ⟨hH, hKB, hIS⟩ := runHash_of_outLen s n 32
    exact ⟨_, _, exec_hash_accepted _ hi hl hd hn, exec_hash_accepted _ hi hl hd hcap, hH, hKB, hIS,
      (runHash_accept_out _).truncates (runHash_accept_out _) hH hw⟩
  · obtain ⟨hl64, hkl, hk⟩ := hmac rfl
    obtain ⟨hH, hKB, hIS⟩ := runHmac_of_outLen s n 32
    exact ⟨_, _, exec_hmac_accepted _ hi hl64 hkl hd hk hn, exec_hmac_accepted _ hi hl64 hkl hd hk hcap,
      hH, hKB, hIS, (runHmac_accept_out _).truncates (runHmac_accept_out _) hH hw⟩

end Sys2Proof.Machine
end

section
/-! PROOFS. The HMAC construction: the key block (R100), the padded keys as words (R101), the outer data block (R107), the
two passes as the construction formula (R108), and the command `HMAC` (R104). -/

namespace Sys2Proof.Machine

/-! ## The key block (R100) -/

theorem keyBlock_of_le {klen : Nat} (key : Nat → Byte) (h : klen ≤ 64) :
    keyBlock key klen = keyBlockCopied key klen := if_neg (Nat.not_lt.2 h)

theorem keyBlock_of_lt {klen : Nat} (key : Nat → Byte) (h : 64 < klen) :
    keyBlock key klen = keyBlockHashed (PS IV key klen 0) := if_pos h

@[simp] theorem keyBlockCopied_get (key : Nat → Byte) (klen j : Nat) (h : j < 64) :
    (keyBlockCopied key klen)[j] = if j < klen then key j else 0x00 :=
  Vector.getElem_ofFn h

@[simp] theorem keyBlockHashed_get (S : Hash) (j : Nat) (h : j < 64) :
    (keyBlockHashed S)[j] = if j < 32 then serByte S j else 0x00 :=
  Vector.getElem_ofFn h

/-- Settles O23: the strict test picks the branch, and the branch gives the byte. -/
theorem keyBlockOfShortAndLongKeys : Obligations.KeyBlockOfShortAndLongKeys := by
  refine fun key klen j hj => ⟨fun hshort => ?_, fun hlong => ?_⟩
  · rw [keyBlock_of_le key hshort, keyBlockCopied_get key klen j hj]
  · rw [keyBlock_of_lt key hlong, keyBlockHashed_get _ j hj]
    simp only [digestOf, ser_get, dite_eq_ite]

/-! ## The padded keys as words (R101) -/

/-- A loaded word from the bytes `b 0`, …, `b 3` the block holds there (R12). -/
theorem loadBlock_of_bytes {B : Block} {k : Nat} {b : Nat → Byte} (w : Schedule) (h : k < 16)
    (hb : ∀ (m : Nat) (hm : m < 4), B[4 * k + m] = b m) : (loadBlock B w)[k] = be32 (b 0) (b 1) (b 2) (b 3) := by
  rw [loadBlock_block B w k h, ← hb 0 (by decide), ← hb 1 (by decide), ← hb 2 (by decide), ← hb 3 (by decide)]
  rfl

theorem be32_xor (a0 a1 a2 a3 b0 b1 b2 b3 : Byte) :
    be32 (a0 ^^^ b0) (a1 ^^^ b1) (a2 ^^^ b2) (a3 ^^^ b3) = be32 a0 a1 a2 a3 ^^^ be32 b0 b1 b2 b3 := by
  simp only [be32, ← BitVec.xor_append]

/-- A byte repeated over a word is its multiple by `0x01010101`: the product does not wrap. -/
theorem be32_repeated (p : Byte) : be32 p p p p = p.setWidth 32 * 0x01010101 := by
  have hp : p.toNat < 2 ^ 8 := p.isLt
  have hones : (0x01010101 : Word).toNat = 0x01010101 := rfl
  apply BitVec.eq_of_toNat_eq
  rw [toNat_be32, BitVec.toNat_mul, BitVec.toNat_setWidth, hones]
  omega

/-- A word of a padded key block: the pad byte reaches every byte of the key block (R101). -/
theorem loadBlock_padKey (KB : Block) (p : Byte) (w : Schedule) (k : Nat) (h : k < 16) :
    (loadBlock (padKey KB p) w)[k] =
      be32 KB[4 * k] KB[4 * k + 1] KB[4 * k + 2] KB[4 * k + 3] ^^^ (p.setWidth 32 * 0x01010101) := by
  simp only [loadBlock_block _ w k h, padKey_get, be32_xor, be32_repeated]

/-- A word of a padded key block whose four key bytes are one byte `b`. -/
theorem loadBlock_padKey_of_repeated {KB : Block} {b : Byte} {k : Nat} (p : Byte) (w : Schedule) (h : k < 16)
    (hb : ∀ (m : Nat) (hm : m < 4), KB[4 * k + m] = b) :
    (loadBlock (padKey KB p) w)[k] = (b ^^^ p).setWidth 32 * 0x01010101 := by
  have byte (m : Nat) (hm : m < 4) : (padKey KB p)[4 * k + m] = b ^^^ p := by rw [padKey_get, hb m hm]
  rw [loadBlock_of_bytes w h byte, be32_repeated]

/-- Settles O24: in the example the key fills five words, and the eleven above them are the pad alone. -/
theorem paddedKeyWords : Obligations.PaddedKeyWords := by
  refine ⟨loadBlock_padKey, fun key w hkey => ?_⟩
  have byte (j : Nat) (hj : j < 64) : (keyBlock key 20)[j] = if j < 20 then key j else 0x00 := by
    rw [keyBlock_of_le key (by decide), keyBlockCopied_get key 20 j hj]
  refine ⟨fun k hk => ?_, fun k hk => ?_⟩
  · have hb (m : Nat) (hm : m < 4) : (keyBlock key 20)[4 * k + m] = 0x0B := by
      rw [byte _ (by omega), if_pos (by omega), hkey _ (by omega)]
    exact ⟨loadBlock_padKey_of_repeated 0x36 w (by omega) hb, loadBlock_padKey_of_repeated 0x5c w (by omega) hb⟩
  · have hb (m : Nat) (hm : m < 4) : (keyBlock key 20)[4 * k + m] = 0x00 := by
      rw [byte _ (by omega), if_neg (by omega)]
    exact ⟨loadBlock_padKey_of_repeated 0x36 w hk.2 hb, loadBlock_padKey_of_repeated 0x5c w hk.2 hb⟩

/-! ## The outer data block (R107) -/

theorem serByte_word (S : Hash) (k m : Nat) (hk : k < 8) (hm : m < 4) : serByte S (4 * k + m) = byteOfWord S[k] m := by
  rw [← ser_get_word S k m hk hm, ser_get]

theorem outerDataBlock_digest (inner : Hash) (j : Nat) (h : j < 32) :
    (paddedBlock (serByte inner) 32 64 0)[j] = serByte inner j := by
  rw [paddedBlock_get, paddedByte_data (by omega), Nat.mul_zero, Nat.zero_add]

/-- Above the digest: the terminator at byte 32, and the trailer, whose bit count 96 * 8 has one byte that is not zero. -/
theorem outerDataBlock_padding (inner : Hash) (j : Nat) (hlo : 32 ≤ j) (h : j < 64) :
    (paddedBlock (serByte inner) 32 64 0)[j] = if j = 32 then 0x80 else if j = 62 then 0x03 else 0x00 := by
  rw [paddedBlock_get, paddedByte_by_place (by decide) h, Nat.mul_zero, Nat.zero_add, if_neg (Nat.not_lt.2 hlo)]
  revert j
  decide

theorem outerDataBlock_word_digest (inner : Hash) (w : Schedule) (k : Nat) (h : k < 8) :
    (loadBlock (paddedBlock (serByte inner) 32 64 0) w)[k] = inner[k] := by
  have byte (m : Nat) (hm : m < 4) : (paddedBlock (serByte inner) 32 64 0)[4 * k + m] = byteOfWord inner[k] m := by
    rw [outerDataBlock_digest inner _ (by omega), serByte_word inner k m h hm]
  rw [loadBlock_of_bytes w (by omega) byte, be32_byteOfWord]

theorem outerDataBlock_word_padding (inner : Hash) (w : Schedule) (k : Nat) (hlo : 8 ≤ k) (h : k < 16) :
    (loadBlock (paddedBlock (serByte inner) 32 64 0) w)[k] =
      if k = 8 then 0x80000000 else if k = 15 then 0x00000300 else 0 := by
  rw [loadBlock_of_bytes w h fun m hm => outerDataBlock_padding inner (4 * k + m) (by omega) (by omega)]
  revert k
  decide

/-- Settles O21: words 0 to 7 are the digest's, the others the padding's. -/
theorem outerDataBlockWordByWord : Obligations.OuterDataBlockWordByWord := by
  intro inner w
  refine ⟨rfl, outerDataBlock_word_digest inner w, outerDataBlock_word_padding inner w 8 (by decide) (by decide),
    fun k hk => ?_, outerDataBlock_word_padding inner w 15 (by decide) (by decide)⟩
  rw [outerDataBlock_word_padding inner w k (by omega) (by omega), if_neg (by omega), if_neg (by omega)]

/-! ## The construction formula (R108) -/

/-- The outer pass reads the bytes of the serialised inner state (R91, R103). -/
theorem serByte_eq_ser (S : Hash) : serByte S = fun n => if h : n < 32 then (ser S)[n] else 0 := by
  funext n
  by_cases h : n < 32
  · rw [dif_pos h, ser_get]
  · rw [dif_neg h]
    exact dif_neg h

/-- Settles O22: each pass continues, by the law of R83, the run that begins with its padded key block. -/
theorem hmacIsTheConstructionFormula : Obligations.HmacIsTheConstructionFormula := by
  intro KB data dlen inner
  refine ⟨congrArg ser (continuationLaw IV (padKey KB 0x36) data dlen), ?_⟩
  rw [← serByte_eq_ser]
  exact congrArg ser (continuationLaw IV (padKey KB 0x5c) (serByte inner) 32)

/-! ## The command `HMAC` (R104) -/

/-- Settles O30: the accepted command runs the key block and the two passes over what it latched, stores the prefix, and
completes. -/
theorem hmacAuthenticatesData : Obligations.HmacAuthenticatesData := by
  intro s hi hl hkl hd hk ho
  have hKB : (runHmac (accept .hmac s)).KB = keyBlock s.key.read s.keyLen.toNat := runHmac_accept_KB s
  refine ⟨_, exec_hmac_accepted s hi hl hkl hd hk ho, hKB, ?_, runHmac_H (accept .hmac s), runHmac_accept_out s,
    runCommand_accept_completes .hmac s, runCommand_accept_sameOutside .hmac s⟩
  rw [hKB]
  exact runHmac_accept_IS s

end Sys2Proof.Machine
end

section
/-! PROOFS. The fault mechanism (R120 to R130): fault entry and its frame, the two checks that lead there from acceptance
(R123, R124), the register writes that lead there (R121, R122, R125), and the faulted state until reset (R126, R128). -/

namespace Sys2Proof.Machine

/-! ## Fault entry (R127) -/

theorem raise_faultedWith (c : Cause) (s : State) : FaultedWith c (raise c s) := by
  simp [FaultedWith]

theorem raise_sameOutside (c : Cause) (s : State) : SameOutside s (raise c s) := by
  simp [SameOutside]

/-- With no command in flight nothing is abandoned. -/
theorem raise_sameDatapath (c : Cause) {s : State} (hb : s.busy = false) : SameDatapath s (raise c s) := by
  simp [raise, hb, SameDatapath]

theorem busy_fault_of_isIdle {s : State} (hi : isIdle s = true) : s.busy = false ∧ s.fault = false := by
  simpa [isIdle] using hi

/-- Fault entry from an idle block is precise. -/
theorem raise_precise (c : Cause) {s : State} (hi : isIdle s = true) :
    FaultedWith c (raise c s) ∧ SameDatapath s (raise c s) ∧ SameOutside s (raise c s) := by
  obtain ⟨hb, -⟩ := busy_fault_of_isIdle hi
  exact ⟨raise_faultedWith c s, raise_sameDatapath c hb, raise_sameOutside c s⟩

/-- Of OUT only the bytes a command in flight might have been writing are lost. -/
theorem raise_out_read (c : Cause) (s : State) {a : Nat} (ha : min s.latch.OLEN.toNat 32 ≤ a) :
    (raise c s).out.read a = s.out.read a := by
  unfold raise
  split
  · have hle := outInFlight_le s
    exact Memory.read_writeBytes_outside _ _ _ _ (.inr (by rw [freeOut_length]; omega))
  · rfl

/-- The codes of R120 are distinct. -/
theorem causeCode_injective : Function.Injective causeCode := by
  intro c d
  cases c <;> cases d <;> decide

/-! ## The commands (R123, R124, R130) -/

/-- Settles O34: a command's answer is the state itself, fault entry or its completion, and each keeps the outside. -/
theorem everyCommandAnswersANextState : Obligations.EveryCommandAnswersANextState := by
  intro i s
  rcases exec_answers i s with he | ⟨c, he⟩ | he
  · exact ⟨s, he, rfl, rfl, rfl, rfl, rfl, rfl, rfl, rfl, rfl, rfl⟩
  · exact ⟨_, he, raise_sameOutside c s⟩
  · exact ⟨_, he, runCommand_accept_sameOutside i s⟩

section Checks

variable {i : Instr} {s : State} (hi : isIdle s = true)
include hi

/-- The length check comes first (R126). -/
theorem exec_lengthRange (hl : lengthOk i (latchOperands i s) = false) :
    exec i s = .next (raise .lengthRange s) := by
  obtain ⟨hb, hf⟩ := busy_fault_of_isIdle hi
  simp [exec_eq_issue, issue, hb, hf, hl]

theorem exec_bufferRange (hl : lengthOk i (latchOperands i s) = true)
    (hr : rangeOk i s.platform (latchOperands i s) = false) : exec i s = .next (raise .bufferRange s) := by
  obtain ⟨hb, hf⟩ := busy_fault_of_isIdle hi
  simp [exec_eq_issue, issue, hb, hf, hl, hr]

/-- A command enters the faulted state from an idle block by one of its two checks only. -/
theorem failedCheck_of_exec_faultedWith {t : State} {c : Cause} (ht : exec i s = .next t) (hc : FaultedWith c t) :
    (c = .lengthRange ∧ lengthOk i (latchOperands i s) = false) ∨
    (c = .bufferRange ∧ rangeOk i s.platform (latchOperands i s) = false) := by
  obtain ⟨hfault, -, -, hcause, -⟩ := hc
  obtain ⟨hb, hf⟩ := busy_fault_of_isIdle hi
  rw [exec_eq_issue] at ht
  rcases issue_cases i (runCommand i) s with ⟨hf', -⟩ | ⟨-, hb', -⟩ | ⟨-, hl, he⟩ | ⟨-, -, hr, he⟩ | ⟨-, -, -, he⟩
  · exact absurd (hf.symm.trans hf') Bool.false_ne_true
  · exact absurd (hb.symm.trans hb') Bool.false_ne_true
  · obtain rfl := Host.Outcome.next.inj (he.symm.trans ht)
    exact .inl ⟨causeCode_injective (hcause.symm.trans (raise_cause _ s)), hl⟩
  · obtain rfl := Host.Outcome.next.inj (he.symm.trans ht)
    exact .inr ⟨causeCode_injective (hcause.symm.trans (raise_cause _ s)), hr⟩
  · obtain rfl := Host.Outcome.next.inj (he.symm.trans ht)
    obtain ⟨-, -, hkept, -⟩ := runCommand_accept_completes i s
    exact absurd (hf.symm.trans (hkept.symm.trans hfault)) Bool.false_ne_true

theorem lengthOk_of_exec_lengthRange {t : State} (ht : exec i s = .next t) (hc : FaultedWith .lengthRange t) :
    lengthOk i (latchOperands i s) = false := by
  rcases failedCheck_of_exec_faultedWith hi ht hc with ⟨-, hl⟩ | ⟨hne, -⟩
  · exact hl
  · cases hne

theorem rangeOk_of_exec_bufferRange {t : State} (ht : exec i s = .next t) (hc : FaultedWith .bufferRange t) :
    rangeOk i s.platform (latchOperands i s) = false := by
  rcases failedCheck_of_exec_faultedWith hi ht hc with ⟨hne, -⟩ | ⟨-, hr⟩
  · cases hne
  · exact hr

end Checks

/-! The two checks failed, in terms of the operand registers (R87, R38). -/

theorem lengthOk_process_false (s : State) : lengthOk .process (latchOperands .process s) = false ↔
    2 ^ 61 - 1 < s.dataLen.toNat + s.offset.toNat := by
  rw [← Bool.not_eq_true, lengthOk_process, not_le]

theorem lengthOk_hash_false (s : State) : lengthOk .hash (latchOperands .hash s) = false ↔
    2 ^ 61 - 1 < s.dataLen.toNat := by
  rw [← Bool.not_eq_true, lengthOk_hash, not_le]

theorem lengthOk_hmac_false (s : State) : lengthOk .hmac (latchOperands .hmac s) = false ↔
    2 ^ 61 - 1 < s.dataLen.toNat + 64 ∨ 2 ^ 61 - 1 < s.keyLen.toNat := by
  rw [← Bool.not_eq_true, lengthOk_hmac, not_and_or, not_le, not_le]

theorem rangeOk_process_false (s : State) : rangeOk .process s.platform (latchOperands .process s) = false ↔
    s.platform.dataCap < s.dataLen.toNat := by
  rw [← Bool.not_eq_true, rangeOk_process, not_le]

theorem rangeOk_storeDigest_false (s : State) :
    rangeOk .storeDigest s.platform (latchOperands .storeDigest s) = false ↔
      s.platform.outCap < s.outLen.toNat := by
  rw [← Bool.not_eq_true, rangeOk_storeDigest, not_le]

theorem rangeOk_hash_false (s : State) : rangeOk .hash s.platform (latchOperands .hash s) = false ↔
    s.platform.dataCap < s.dataLen.toNat ∨ s.platform.outCap < s.outLen.toNat := by
  rw [← Bool.not_eq_true, rangeOk_hash, not_and_or, not_le, not_le]

theorem rangeOk_hmac_false (s : State) : rangeOk .hmac s.platform (latchOperands .hmac s) = false ↔
    s.platform.dataCap < s.dataLen.toNat ∨ s.platform.keyCap < s.keyLen.toNat ∨
      s.platform.outCap < s.outLen.toNat := by
  rw [← Bool.not_eq_true, rangeOk_hmac, not_and_or, not_and_or, not_le, not_le, not_le, or_assoc]

/-- Settles O37: a failed length check faults whatever the range check says, and no other command has one to fail. -/
theorem lengthRangeFaults : Obligations.LengthRangeFaults := by
  intro s hi
  have precise := raise_precise .lengthRange hi
  refine ⟨fun h => ⟨_, exec_lengthRange hi ((lengthOk_process_false s).2 h), precise⟩,
    fun h => ⟨_, exec_lengthRange hi ((lengthOk_hash_false s).2 h), precise⟩,
    fun h => ⟨_, exec_lengthRange hi ((lengthOk_hmac_false s).2 h), precise⟩, fun i t ht hc => ?_⟩
  have hl := lengthOk_of_exec_lengthRange hi ht hc
  cases i with
  | loadIv | compress | storeDigest => cases hl
  | process => exact .inl ⟨rfl, (lengthOk_process_false s).1 hl⟩
  | hash => exact .inr (.inl ⟨rfl, (lengthOk_hash_false s).1 hl⟩)
  | hmac => exact .inr (.inr ⟨rfl, (lengthOk_hmac_false s).1 hl⟩)

/-- Settles O38: behind a length check that passed, a failed range check faults, and the commands that reach no buffer
have none to fail. -/
theorem bufferRangeFaults : Obligations.BufferRangeFaults := by
  intro s hi
  have precise := raise_precise .bufferRange hi
  refine ⟨fun hl h => ⟨_, exec_bufferRange hi ((lengthOk_process s).2 hl) ((rangeOk_process_false s).2 h), precise⟩,
    fun h => ⟨_, exec_bufferRange hi rfl ((rangeOk_storeDigest_false s).2 h), precise⟩,
    fun hl h => ⟨_, exec_bufferRange hi ((lengthOk_hash s).2 hl) ((rangeOk_hash_false s).2 h), precise⟩,
    fun hl hk h => ⟨_, exec_bufferRange hi ((lengthOk_hmac s).2 ⟨hl, hk⟩) ((rangeOk_hmac_false s).2 h), precise⟩,
    fun i t ht hc => ?_⟩
  have hr := rangeOk_of_exec_bufferRange hi ht hc
  cases i with
  | loadIv | compress => cases hr
  | process => exact .inl ⟨rfl, (rangeOk_process_false s).1 hr⟩
  | storeDigest => exact .inr (.inl ⟨rfl, (rangeOk_storeDigest_false s).1 hr⟩)
  | hash => exact .inr (.inr (.inl ⟨rfl, (rangeOk_hash_false s).1 hr⟩))
  | hmac => exact .inr (.inr (.inr ⟨rfl, (rangeOk_hmac_false s).1 hr⟩))

/-! ## Register writes while idle (R121, R125) -/

theorem commandOf_illegal {v : Word} (hv : ∀ i, v ≠ encode i) (n : BitVec 7) : commandOf n v = none := by
  cases hc : commandOf n v with
  | none => rfl
  | some i =>
    obtain ⟨_, hm, hd⟩ := issuedBy_some (.write n v) i hc
    cases hm
    exact absurd (decode_ok_iff.1 hd) (hv i)

/-- A write that issues no command is a write of its register. -/
theorem step_write_noCommand {s : State} {n : BitVec 7} {v : Word} {rest : List Move}
    (h : s.host = .write n v :: rest) (hc : commandOf n v = none) :
    step s = .next (writeRegister n v { s with host := rest }) := by
  simp [step, h, boundMove, hc, makeMove]

theorem step_start {s : State} {v : Word} {rest : List Move} (h : s.host = .start v :: rest) :
    step s = startCommand v { s with host := rest } := by
  simp [step, h, boundMove, issuedBy, makeMove]

theorem writeRegister_cmd {s : State} (hi : isIdle s = true) {n : BitVec 7} (hn : regAt n = some .cmd) (v : Word) :
    writeRegister n v s = raise .illegalCmd s := by
  obtain ⟨hb, hf⟩ := busy_fault_of_isIdle hi
  simp [writeRegister, hb, hf, hn]

/-- Settles O35: an illegal word issues no command, and the write of index 0 that is left faults. -/
theorem illegalWordFaults : Obligations.IllegalWordFaults := by
  intro s v rest hi hv hm
  have hidle : isIdle { s with host := rest } = true := hi
  have hc := commandOf_illegal hv 0
  have hstep : step s = .next (writeRegister 0 v { s with host := rest }) := by
    rcases hm with hw | hs
    · exact step_write_noCommand hw hc
    · rw [step_start hs, startCommand, hc]
  have hfaults := writeRegister_cmd hidle (regAt_indexOf .cmd) v
  exact ⟨_, hstep.trans (congrArg _ hfaults), raise_precise .illegalCmd hidle⟩

/-- The indices of R125 are those of `STATUS`, of `FAULT_CAUSE` and of no register. -/
theorem regAt_of_illegalAccess : ∀ n : BitVec 7,
    (1 ≤ n.toNat ∧ n.toNat ≤ 3) ∨ (12 ≤ n.toNat ∧ n.toNat ≤ 15) ∨ (24 ≤ n.toNat ∧ n.toNat ≤ 31) ∨ 96 ≤ n.toNat →
    regAt n = none ∨ regAt n = some .status ∨ regAt n = some .faultCause := by
  decide

theorem writeRegister_illegalAccess {s : State} (hi : isIdle s = true) {n : BitVec 7}
    (hn : regAt n = none ∨ regAt n = some .status ∨ regAt n = some .faultCause) (v : Word) :
    writeRegister n v s = raise .illegalAccess s := by
  obtain ⟨hb, hf⟩ := busy_fault_of_isIdle hi
  rcases hn with hr | hr | hr <;> simp [writeRegister, hb, hf, hr]

/-- Settles O39: at these indices there is no register, or one the host cannot write. -/
theorem illegalAccessFaults : Obligations.IllegalAccessFaults := by
  intro s n v rest hi hm hn
  have hidle : isIdle { s with host := rest } = true := hi
  have hn0 : n ≠ 0 := by
    rintro rfl
    exact absurd hn (by decide)
  refine ⟨_, ?_, raise_precise .illegalAccess hidle⟩
  rw [step_write hm hn0, writeRegister_illegalAccess hidle (regAt_of_illegalAccess n hn)]

/-! ## Register writes while busy or faulted (R122, R126) -/

/-- A register write, in either of the model's two forms (log entry 1). -/
inductive IsRegisterWrite : Move → Prop where
  | write (n : BitVec 7) (v : Word) : IsRegisterWrite (.write n v)
  | start (v : Word) : IsRegisterWrite (.start v)

section Writes

variable {s : State} {m : Move} {rest : List Move}

/-- A register write is the issue sequence of a command or the write of a register (R45, R126). -/
theorem step_registerWrite (hm : IsRegisterWrite m) (h : s.host = m :: rest) :
    (∃ i run, step s = issue i run { s with host := rest }) ∨
    ∃ n v, step s = .next (writeRegister n v { s with host := rest }) := by
  cases hm with
  | write n v =>
    cases hc : commandOf n v with
    | none => exact .inr ⟨n, v, step_write_noCommand h hc⟩
    | some i =>
      obtain ⟨_, hw, hd⟩ := issuedBy_some (.write n v) i hc
      cases hw
      exact .inl ⟨i, runCommand i, (step_command h hd).trans (exec_eq_issue i _)⟩
  | start v =>
    rw [step_start h]
    rcases startCommand_cases v { s with host := rest } with ⟨i, -, he⟩ | he
    · exact .inl ⟨i, id, he⟩
    · exact .inr ⟨0, v, he⟩

theorem step_registerWrite_faulted (hm : IsRegisterWrite m) (h : s.host = m :: rest) (hf : s.fault = true) :
    step s = .next { s with host := rest } := by
  rcases step_registerWrite hm h with ⟨i, run, he⟩ | ⟨n, v, he⟩
  · exact he.trans (if_pos hf)
  · exact he.trans (congrArg _ (if_pos hf))

theorem step_registerWrite_busy (hm : IsRegisterWrite m) (h : s.host = m :: rest) (hb : s.busy = true)
    (hf : s.fault = false) : step s = .next (raise .accessWhileBusy { s with host := rest }) := by
  rcases step_registerWrite hm h with ⟨i, run, he⟩ | ⟨n, v, he⟩
  · rw [he]
    simp [issue, hb, hf]
  · rw [he]
    simp [writeRegister, hb, hf]

end Writes

/-- Settles O36: both forms of the write enter the fault, and a read changes the host's side alone. -/
theorem writeWhileBusyFaults : Obligations.WriteWhileBusyFaults := by
  intro s rest hb hf
  have entry := raise_faultedWith .accessWhileBusy { s with host := rest }
  have outside := raise_sameOutside .accessWhileBusy { s with host := rest }
  have out (a : Nat) := raise_out_read .accessWhileBusy { s with host := rest } (a := a)
  exact ⟨fun n v h => ⟨_, step_registerWrite_busy (.write n v) h hb hf, entry, outside, out⟩,
    fun v h => ⟨_, step_registerWrite_busy (.start v) h hb hf, entry, outside, out⟩,
    fun n h => ⟨_, step_read s n rest h, hb, hf, rfl, rfl⟩⟩

/-- Settles O40: neither form of the write does anything. -/
theorem faultedBlockIgnoresWrites : Obligations.FaultedBlockIgnoresWrites :=
  fun _ _ hf => ⟨fun n v h => step_registerWrite_faulted (.write n v) h hf,
    fun v h => step_registerWrite_faulted (.start v) h hf⟩

/-! ## The faulted state until reset (R128) -/

/-- `FAULT` with the recorded cause. -/
def faultState (s : State) : Bool × BitVec 3 := (s.fault, s.cause)

section Engine

variable (s : State)

theorem faultState_finishCurrent : faultState (finishCurrent s) = faultState s := by
  unfold finishCurrent
  cases s.seq.op <;> rfl

theorem faultState_loadIvAtStart : faultState (loadIvAtStart s) = faultState s := by
  unfold loadIvAtStart
  split <;> rfl

variable {s} in
theorem faultState_fillOr (src : Nat → Byte) {after : State → State} (h : faultState (after s) = faultState s) :
    faultState (fillOr src after s) = faultState s := by
  unfold fillOr
  split
  · simp only [faultState, fillBlock, goto_fault, goto_cause]
  · exact h

theorem faultState_afterMessage : faultState (afterMessage s) = faultState s := by
  unfold afterMessage
  split
  · rfl
  · exact faultState_finishCurrent s

theorem faultState_fillStep : faultState (fillStep s) = faultState s := by
  unfold fillStep
  cases s.seq.phase with
  | idle => exact faultState_finishCurrent { s with H := IV }
  | keyHash => exact (faultState_fillOr _ rfl).trans (faultState_loadIvAtStart s)
  | keyBlock | innerKey | outerKey => rfl
  | innerData | outerData => exact faultState_fillOr _ rfl
  | msg =>
    simp only
    split
    · exact (faultState_fillOr _ (faultState_afterMessage _)).trans (faultState_loadIvAtStart s)
    · exact faultState_fillOr _ (faultState_afterMessage s)
  | store => exact faultState_finishCurrent (storeDigest s)

theorem faultState_afterBlock : faultState (afterBlock s) = faultState s := by
  unfold afterBlock
  cases s.seq.phase with
  | innerKey | outerKey | keyHash | innerData | outerData => rfl
  | idle | keyBlock | store => exact faultState_finishCurrent s
  | msg =>
    simp only
    split
    · exact faultState_finishCurrent s
    · rfl

theorem faultState_engineStep : faultState (engineStep s) = faultState s := by
  unfold engineStep
  cases s.seq.step with
  | fill => exact faultState_fillStep s
  | expand =>
    unfold expandStep
    simp only
    split <;> rfl
  | init => rfl
  | round =>
    unfold roundStep
    simp only
    split <;> rfl
  | feed => exact faultState_afterBlock { s with H := feed s.H s.V }

/-- The engine enters no fault and leaves none. -/
theorem faultState_engineTurn : faultState (engineTurn s) = faultState s := by
  unfold engineTurn
  split
  · exact faultState_engineStep s
  · rfl

theorem faultState_waitPoll : faultState (waitPoll s) = faultState s := by
  rcases waitPoll_cases s with ⟨-, he⟩ | ⟨-, he⟩ | ⟨-, he⟩ <;> rw [he]
  · exact faultState_engineTurn { s with host := .wait :: s.host }
  · rfl
  · rfl

end Engine

section Faulted

variable {s t : State} (hf : s.fault = true)

theorem faultState_pokeByte {sp : Space} {a : Nat} {b : Byte} (ht : pokeByte sp a b s = .next t) :
    faultState t = faultState s := by
  obtain ⟨-, ⟨-, rfl⟩ | ⟨-, rfl⟩⟩ := pokeByte_next ht <;> cases sp <;> rfl

include hf

theorem writeRegister_faulted (n : BitVec 7) (v : Word) : writeRegister n v s = s := if_pos hf

theorem issue_faulted (i : Instr) (run : State → State) : issue i run s = .next s := if_pos hf

theorem startCommand_faulted (v : Word) : startCommand v s = .next s := by
  rcases startCommand_cases v s with ⟨i, -, he⟩ | he
  · exact he.trans (issue_faulted hf i id)
  · exact he.trans (congrArg _ (writeRegister_faulted hf 0 v))

/-- In the faulted state every move but a reset keeps the fault and its cause. -/
theorem faultState_makeMove {m : Move} (hm : m ≠ .reset) (ht : makeMove m s = .next t) :
    faultState t = faultState s := by
  cases m with
  | write n v =>
    obtain rfl := Host.Outcome.next.inj ht
    rw [writeRegister_faulted hf]
  | start v =>
    obtain rfl := Host.Outcome.next.inj ((startCommand_faulted hf v).symm.trans ht)
    rfl
  | engine => exact Host.Outcome.next.inj ht ▸ faultState_engineTurn s
  | read n => exact Host.Outcome.next.inj ht ▸ rfl
  | bus addr acc => cases ht
  | poke sp a b => exact faultState_pokeByte ht
  | peek a => exact peekByte_next ht ▸ rfl
  | wait => exact Host.Outcome.next.inj ht ▸ faultState_waitPoll s
  | reset => exact absurd rfl hm

end Faulted

/-- The bus has no reset. -/
theorem accessMove_ne_reset (n : BitVec 7) (acc : BusAccess) : accessMove n acc ≠ .reset := by
  cases acc with
  | write v | read => exact Move.noConfusion
  | start v =>
    simp only [accessMove]
    split <;> exact Move.noConfusion

theorem eq_reset_of_boundMove {p : Config.Platform} {m : Move} (h : boundMove p m = .reset) : m = .reset := by
  cases m with
  | bus addr acc =>
    simp only [boundMove] at h
    split at h
    · exact absurd h (accessMove_ne_reset _ acc)
    · cases h
  | _ => exact h

/-- In the faulted state every step but a reset keeps the fault and its cause. -/
theorem faultState_step {s t : State} (hf : s.fault = true) (hm : ∀ rest, s.host ≠ .reset :: rest)
    (ht : step s = .next t) : faultState t = faultState s := by
  rcases step_cases s with ⟨-, he⟩ | ⟨m, rest, i, -, -, he⟩ | ⟨m, rest, hh, -, he⟩ <;> rw [he] at ht
  · exact Host.Outcome.next.inj ht ▸ faultState_engineTurn s
  · have hnext := (exec_eq_issue i _).trans (issue_faulted (s := { s with host := rest }) hf i (runCommand i))
    obtain rfl := Host.Outcome.next.inj (hnext.symm.trans ht)
    rfl
  · refine faultState_makeMove (s := { s with host := rest }) hf (fun hr => hm rest ?_) ht
    rw [hh, eq_reset_of_boundMove hr]

theorem step_reset {s : State} {rest : List Move} (h : s.host = .reset :: rest) :
    step s = .next (applyReset { s with host := rest }) := by
  simp [step, h, boundMove, issuedBy, makeMove]

/-- Settles O41: every step but a reset keeps the fault, and a reset sets what power-up sets. -/
theorem faultIsStickyUntilReset : Obligations.FaultIsStickyUntilReset := by
  refine ⟨fun s t hf hm ht => ?_, fun s rest h =>
    ⟨_, step_reset h, rfl, rfl, rfl, rfl, rfl, rfl, rfl, rfl, rfl⟩⟩
  obtain ⟨hfault, hcause⟩ := Prod.ext_iff.1 (faultState_step hf hm ht)
  exact ⟨hfault.trans hf, hcause⟩

end Sys2Proof.Machine
end

section
/-! PROOFS. `RESET` in any state (R140, R27), and a DATA or KEY byte raced with the engine (R145). -/

namespace Sys2Proof.Machine

/-! ## `RESET` in any state (R140) -/

theorem statusWord_applyReset (s : State) : statusWord (applyReset s) = 0 := by
  rw [statusWord, applyReset_fault, applyReset_done, applyReset_busy]
  rfl

theorem causeWord_applyReset (s : State) : causeWord (applyReset s) = 0 := by
  rw [causeWord, applyReset_cause]
  rfl

/-- Of OUT only the bytes a command in flight might have been writing are lost. -/
theorem applyReset_out_read (s : State) {a : Nat} (ha : outInFlight s ≤ a) :
    (applyReset s).out.read a = s.out.read a := by
  rw [applyReset_out]
  exact Memory.read_writeBytes_outside _ _ _ _ (.inr (by simpa using ha))

/-- Settles O43: the values stand in the state `RESET` leaves, and the OUT bytes named lie above those in flight. -/
theorem resetActionInAnyState : Obligations.ResetActionInAnyState := by
  intro s rest h
  have hle : outInFlight s ≤ min s.latch.OLEN.toNat 32 := outInFlight_le s
  have hout (a : Nat) (ha : outInFlight s ≤ a) : (applyReset { s with host := rest }).out.read a = s.out.read a :=
    applyReset_out_read { s with host := rest } ha
  refine ⟨_, step_reset h, statusWord_applyReset _, causeWord_applyReset _, rfl, rfl, rfl, rfl, rfl, rfl, rfl, rfl, rfl,
    rfl, fun a ha => hout a (by omega), fun _ a ha => hout a (by omega), fun hb a => hout a ?_⟩
  exact outInFlight_idle s hb ▸ Nat.zero_le a

/-! ## A DATA or KEY byte written while a command is in flight (R145) -/

theorem step_poke_busy {s : State} {sp : Space} {a : Nat} {b : Byte} {rest : List Move}
    (h : s.host = .poke sp a b :: rest) (hb : s.busy = true) (hsp : sp ≠ .out) (ha : a < capacity s.platform sp) :
    step s = .next (raceByte sp a b { s with host := rest }) := by
  cases sp with
  | data | key => simp [step, h, boundMove, issuedBy, makeMove, pokeByte, hb, ha]
  | out => exact absurd rfl hsp

/-- At the raced index the engine sees the byte chosen there: the one it saw before, or the one written. -/
theorem engineByte_raceByte_same (sp : Space) (a : Nat) (b : Byte) (s : State) :
    engineByte (raceByte sp a b s) sp a = engineByte s sp a ∨ engineByte (raceByte sp a b s) sp a = b := by
  have hseen : engineByte (raceByte sp a b s) sp a =
      if Config.freeValue 1 s.draws 0 = 0 then engineByte s sp a else b := by
    simp [engineByte, raceByte, racedByte]
  rw [hseen]
  exact ite_eq_or_eq _ _ _

/-- At every other index the engine sees what it saw before. -/
theorem engineByte_raceByte_other {sp sp' : Space} {a a' : Nat} (h : sp' ≠ sp ∨ a' ≠ a) (b : Byte) (s : State) :
    engineByte (raceByte sp a b s) sp' a' = engineByte s sp' a' := by
  have hne : ¬ (sp = sp' ∧ a = a') := fun ⟨hsp, ha⟩ => h.elim (absurd hsp.symm) (absurd ha.symm)
  have hraced : racedByte (raceByte sp a b s).raced sp' a' = racedByte s.raced sp' a' := if_neg hne
  have hread : (spaceBytes (raceByte sp a b s) sp').read a' = (spaceBytes s sp').read a' := by
    rw [← read_writeByte_other h b s]
    cases sp' <;> rfl
  simp only [engineByte, hraced, hread]

/-- Settles O52: the write leaves a race at its own index and the command's state alone. -/
theorem racedByteIsOldOrNew : Obligations.RacedByteIsOldOrNew := by
  intro s sp a b rest hb hsp hh ha
  have hbytes (sp' : Space) (a' : Nat) : engineByte { s with host := rest } sp' a' = engineByte s sp' a' := by
    cases sp' <;> rfl
  refine ⟨_, step_poke_busy hh hb hsp ha, ?_, fun sp' a' hne => ?_, ?_⟩
  · rw [← hbytes]
    exact engineByte_raceByte_same sp a b _
  · rw [engineByte_raceByte_other hne, hbytes]
  · cases sp with
    | data | key => exact ⟨hb, rfl, rfl, ⟨rfl, rfl, rfl, rfl, rfl, rfl⟩, rfl⟩
    | out => exact absurd rfl hsp

end Sys2Proof.Machine
end

section
/-! PROOFS. The host that keeps the hazard rules (R143, R145): every step leaves its moves safe, and none raises
`ACCESS_WHILE_BUSY`. -/

namespace Sys2Proof.Machine

/-- Moves that are safe with a command in flight are safe without one. -/
theorem keepsHazards_of_le {f g : Bool} {ms : List Move} (hg : g = true → f = true) (h : keepsHazards f ms = true) :
    keepsHazards g ms = true := by
  cases g with
  | true => rwa [hg rfl] at h
  | false =>
    cases f with
    | false => exact h
    | true =>
      clear hg
      induction ms with
      | nil => rfl
      | cons m ms ih =>
        cases m with
        | wait | reset => exact h
        | engine | read => exact ih h
        | write | start | poke | peek => cases h
        | bus addr acc =>
          cases acc with
          | read => exact ih h
          | write | start => cases h

/-- A bus access is as safe as the register access it is bound to. -/
theorem keepsHazards_boundMove {f : Bool} {m : Move} {ms : List Move} (p : Config.Platform)
    (h : keepsHazards f (m :: ms) = true) : keepsHazards f (boundMove p m :: ms) = true := by
  cases m with
  | bus addr acc =>
    rw [boundMove]
    cases indexAt p addr with
    | none => exact h
    | some n =>
      cases acc with
      | write v | read => exact h
      | start v =>
        simp only [accessMove]
        split
        · exact h
        · simp only [keepsHazards, Bool.and_eq_true] at h ⊢
          exact h.imp_right (keepsHazards_of_le fun _ => rfl)
  | _ => exact h

/-- A move that is safe only without a command in flight, and what the moves after it have to be. -/
theorem idle_of_keepsHazards {f g : Bool} {ms : List Move} (h : (!f && keepsHazards g ms) = true) :
    f = false ∧ keepsHazards g ms = true := by
  simpa using h

/-- A move records no `ACCESS_WHILE_BUSY`, and leaves a command in flight only if `f` allows it. -/
structure NoHazard (f : Bool) (s t : State) : Prop where
  host : t.host = s.host
  busy : t.busy = true → f = true
  cause : t.cause = causeCode .accessWhileBusy → s.cause = causeCode .accessWhileBusy

/-- The moves to come are still safe if they are safe after what the move may leave. -/
theorem NoHazard.careful {f : Bool} {s t : State} (h : NoHazard f s t) (hs : keepsHazards f s.host = true) :
    keepsHazards t.busy t.host = true ∧
      (t.cause = causeCode .accessWhileBusy → s.cause = causeCode .accessWhileBusy) :=
  ⟨h.host ▸ keepsHazards_of_le h.busy hs, h.cause⟩

theorem NoHazard.weaken {s t : State} (f : Bool) (h : NoHazard false s t) : NoHazard f s t :=
  { h with busy := fun hb => absurd (h.busy hb) Bool.false_ne_true }

theorem NoHazard.raise {c : Cause} (hc : c ≠ .accessWhileBusy) (s : State) : NoHazard false s (raise c s) where
  host := raise_host c s
  busy h := (raise_busy c s).symm.trans h
  cause h := absurd (causeCode_injective ((raise_cause c s).symm.trans h)) hc

theorem NoHazard.engineTurn (s : State) : NoHazard s.busy s (engineTurn s) where
  host := by
    have hs : Machine.engineTurn s = { Machine.engineTurn s with host := s.host } := engineTurn_host s s.host
    rw [hs]
  busy h := by
    by_contra hb
    have hidle : Machine.engineTurn s = s := engineTurns_idle 1 s (by simpa using hb)
    exact hb (hidle ▸ h)
  cause h := by
    obtain ⟨-, hcause⟩ := Prod.ext_iff.1 (faultState_engineTurn s)
    exact hcause.symm.trans h

theorem NoHazard.runCommand (i : Instr) (s : State) : NoHazard false s (runCommand i (accept i s)) := by
  obtain ⟨hbusy, -, -, hcause, -⟩ := runCommand_accept_completes i s
  obtain ⟨-, -, -, -, -, -, -, hhost, -⟩ := runCommand_accept_sameOutside i s
  exact ⟨hhost, hbusy.symm.trans, hcause.symm.trans⟩

section Idle

variable {s t : State} (hb : s.busy = false)
include hb

theorem NoHazard.of_sameStatus (hhost : t.host = s.host) (hbusy : t.busy = s.busy) (hcause : t.cause = s.cause) :
    NoHazard false s t :=
  ⟨hhost, fun h => hb.symm.trans (hbusy.symm.trans h), hcause.symm.trans⟩

theorem NoHazard.setRegister (r : Reg) (v : Word) : NoHazard false s (setRegister r v s) :=
  .of_sameStatus hb (setRegister_host r v s) (setRegister_busy r v s) (setRegister_cause r v s)

theorem NoHazard.writeRegister (n : BitVec 7) (v : Word) : NoHazard false s (writeRegister n v s) := by
  unfold Machine.writeRegister
  rw [hb]
  cases s.fault with
  | true => exact .of_sameStatus hb rfl rfl rfl
  | false =>
    cases regAt n with
    | none => exact .raise Cause.noConfusion s
    | some r =>
      cases r with
      | cmd | status | faultCause => exact .raise Cause.noConfusion s
      | operand o h => exact .setRegister hb (.operand o h) v
      | hash i => exact .setRegister hb (.hash i) v
      | sched t => exact .setRegister hb (.sched t) v

/-- The issue sequence of a block that is not busy raises no `ACCESS_WHILE_BUSY` (R126). -/
theorem NoHazard.issue {i : Instr} {run : State → State} {f : Bool} (hrun : NoHazard f s (run (accept i s)))
    (ht : issue i run s = .next t) : NoHazard f s t := by
  rcases issue_cases i run s with ⟨-, he⟩ | ⟨-, hb', -⟩ | ⟨-, -, he⟩ | ⟨-, -, -, he⟩ | ⟨-, -, -, he⟩
  · exact Host.Outcome.next.inj (he.symm.trans ht) ▸ (NoHazard.of_sameStatus hb rfl rfl rfl).weaken f
  · exact absurd (hb.symm.trans hb') Bool.false_ne_true
  · exact Host.Outcome.next.inj (he.symm.trans ht) ▸ (NoHazard.raise Cause.noConfusion s).weaken f
  · exact Host.Outcome.next.inj (he.symm.trans ht) ▸ (NoHazard.raise Cause.noConfusion s).weaken f
  · exact Host.Outcome.next.inj (he.symm.trans ht) ▸ hrun

theorem NoHazard.startCommand {v : Word} (ht : startCommand v s = .next t) : NoHazard true s t := by
  rcases startCommand_cases v s with ⟨i, -, he⟩ | he <;> rw [he] at ht
  · exact .issue hb ⟨accept_host i s, fun _ => rfl, (accept_cause i s).symm.trans⟩ ht
  · exact Host.Outcome.next.inj ht ▸ (NoHazard.writeRegister hb 0 v).weaken true

theorem NoHazard.pokeByte {sp : Space} {a : Nat} {b : Byte} (ht : pokeByte sp a b s = .next t) :
    NoHazard false s t := by
  obtain ⟨-, ⟨-, rfl⟩ | ⟨hb', -⟩⟩ := pokeByte_next ht
  · exact .of_sameStatus hb (writeByte_host sp a b s) (writeByte_busy sp a b s) (writeByte_cause sp a b s)
  · exact absurd (hb.symm.trans hb') Bool.false_ne_true

theorem NoHazard.peekByte {a : Nat} (ht : peekByte a s = .next t) : NoHazard false s t := by
  rw [peekByte_next ht]
  exact .of_sameStatus hb rfl rfl rfl

end Idle

/-- A poll of `WAIT` leaves the move on the list or takes it off with no command in flight (R50). -/
theorem waitPoll_careful {s : State} (h : keepsHazards false s.host = true) :
    keepsHazards (waitPoll s).busy (waitPoll s).host = true ∧
      ((waitPoll s).cause = causeCode .accessWhileBusy → s.cause = causeCode .accessWhileBusy) := by
  rcases waitPoll_cases s with ⟨-, he⟩ | ⟨hb, he⟩ | ⟨hb, he⟩ <;> rw [he]
  · exact (NoHazard.engineTurn { s with host := .wait :: s.host }).careful h
  · exact ⟨hb ▸ h, id⟩
  · exact ⟨h, id⟩

/-- A move of a careful host, taken off its list, leaves the host careful. -/
theorem makeMove_careful {m : Move} {s t : State} (h : keepsHazards s.busy (m :: s.host) = true)
    (ht : makeMove m s = .next t) : keepsHazards t.busy t.host = true ∧
      (t.cause = causeCode .accessWhileBusy → s.cause = causeCode .accessWhileBusy) := by
  cases m with
  | write n v =>
    obtain ⟨hb, hms⟩ := idle_of_keepsHazards h
    exact Host.Outcome.next.inj ht ▸ (NoHazard.writeRegister hb n v).careful hms
  | start v =>
    obtain ⟨hb, hms⟩ := idle_of_keepsHazards h
    exact (NoHazard.startCommand hb ht).careful hms
  | engine => exact Host.Outcome.next.inj ht ▸ (NoHazard.engineTurn s).careful h
  | read n => exact Host.Outcome.next.inj ht ▸ ⟨h, id⟩
  | bus addr acc => cases ht
  | poke sp a b =>
    obtain ⟨hb, hms⟩ := idle_of_keepsHazards h
    exact (NoHazard.pokeByte hb ht).careful hms
  | peek a =>
    obtain ⟨hb, hms⟩ := idle_of_keepsHazards h
    exact (NoHazard.peekByte hb ht).careful hms
  | wait => exact Host.Outcome.next.inj ht ▸ waitPoll_careful h
  | reset => exact Host.Outcome.next.inj ht ▸ ⟨h, fun hc => absurd hc (by simp [causeCode])⟩

/-- Settles O60: the engine, a command and every other move leave a careful host careful. -/
theorem carefulHostNeverFaultsBusy : Obligations.CarefulHostNeverFaultsBusy := by
  intro s t h ht
  rcases step_cases s with ⟨hh, he⟩ | ⟨m, rest, i, hh, hi, he⟩ | ⟨m, rest, hh, -, he⟩ <;> rw [he] at ht
  · exact Host.Outcome.next.inj ht ▸ (NoHazard.engineTurn s).careful h
  · obtain ⟨v, hm, -⟩ := issuedBy_some _ i hi
    have hbound := keepsHazards_boundMove s.platform (hh ▸ h)
    rw [hm] at hbound
    obtain ⟨hb, hms⟩ := idle_of_keepsHazards hbound
    rw [exec_eq_issue] at ht
    exact (NoHazard.issue (s := { s with host := rest }) hb (.runCommand i _) ht).careful hms
  · exact makeMove_careful (s := { s with host := rest }) (keepsHazards_boundMove s.platform (hh ▸ h)) ht

end Sys2Proof.Machine
end

section
/-! PROOFS. The engine's turns put together: one block (R70 to R73) and one padder run (R82, R83, R93, R100), whatever the
phase. -/

namespace Sys2Proof.Machine

/-! ## Runs of the engine -/

/-- The engine goes from `s` to `t` in `k` turns, with a command in flight until the last of them is done. -/
structure RunsTo (k : Nat) (s t : State) : Prop where
  turns : engineTurns k s = t
  busy : ∀ j, j < k → (engineTurns j s).busy = true

theorem RunsTo.of_busy {k : Nat} {s t : State} (hb : t.busy = true) (ht : engineTurns k s = t) : RunsTo k s t where
  turns := ht
  busy j hj := engineTurns_busy_before j k s (Nat.le_of_lt hj) (ht ▸ hb)

theorem engineTurns_one {s : State} (hb : s.busy = true) : engineTurns 1 s = engineStep s := if_pos hb

theorem RunsTo.one {s t : State} (hb : s.busy = true) (ht : engineStep s = t) : RunsTo 1 s t where
  turns := (engineTurns_one hb).trans ht
  busy j hj := by
    obtain rfl : j = 0 := Nat.lt_one_iff.1 hj
    exact hb

theorem RunsTo.trans {m n : Nat} {s u t : State} (h : RunsTo m s u) (h' : RunsTo n u t) : RunsTo (m + n) s t where
  turns := by rw [engineTurns_add, h.turns, h'.turns]
  busy j hj := by
    by_cases hjm : j < m
    · exact h.busy j hjm
    · obtain ⟨d, rfl⟩ := Nat.exists_eq_add_of_le (Nat.le_of_not_lt hjm)
      rw [engineTurns_add, h.turns]
      exact h'.busy d (by omega)

/-- Two states that the first engine step takes to the same state run to the same end. -/
theorem RunsTo.of_engineStep_eq {k : Nat} {s s' t : State} (hb : s.busy = true) (hb' : s'.busy = true)
    (hs : engineStep s = engineStep s') (h : RunsTo (k + 1) s' t) : RunsTo (k + 1) s t := by
  have hturns (j : Nat) : engineTurns (j + 1) s = engineTurns (j + 1) s' := by
    rw [engineTurns, engineTurns, engineTurn, engineTurn, if_pos hb, if_pos hb', hs]
  refine ⟨(hturns k).trans h.turns, fun j hj => ?_⟩
  cases j with
  | zero => exact hb
  | succ j => exact hturns j ▸ h.busy (j + 1) hj

/-! ## One block -/

theorem engineTurns_init {s : State} (hb : s.busy = true) (hs : s.seq.step = .init) :
    engineTurns 1 s = goto s.seq.phase .round 0 { s with V := initWorking s.H } := by
  rw [engineTurns_one hb, engineStep, hs, initStep]

/-- `EXPAND`, `INIT` and the rounds of one block: 113 engine steps up to `FEED`. -/
theorem engineTurns_toFeed {s : State} (hb : s.busy = true) (hs : s.seq.step = .expand) (ht : s.seq.t = 16) :
    engineTurns 113 s = goto s.seq.phase .feed 0
      { s with W := expand s.W, V := roundsFrom (expand s.W) 64 0 (initWorking s.H) } := by
  rw [show 113 = (47 + 1) + (1 + (63 + 1)) from rfl, engineTurns_add, engineTurns_expand 47 16 s hb hs ht rfl,
    engineTurns_add, engineTurns_init (by simpa using hb) (by simp),
    engineTurns_rounds 63 0 _ (by simpa using hb) (by simp) (by simp) rfl]
  simp [goto, expand]

/-! ## The working elements of a padder run -/

/-- The latched lengths, which a padder run leaves as acceptance set them (R83). -/
structure SameLengths (l l' : Latches) : Prop where
  olen : l'.OLEN = l.OLEN
  klen : l'.KLEN = l.KLEN
  dlen : l'.DLEN = l.DLEN

/-- `s` with another hash state in `H`. -/
def setHash (S : Hash) (s : State) : State := { s with H := S }

@[simp] theorem setHash_latch (S : Hash) (s : State) : (setHash S s).latch = s.latch := rfl
@[simp] theorem setHash_seq (S : Hash) (s : State) : (setHash S s).seq = s.seq := rfl
@[simp] theorem setHash_busy (S : Hash) (s : State) : (setHash S s).busy = s.busy := rfl

/-- `s` with what a padder run works in: `W`, `V` and the latches. -/
def withWork (w : Schedule) (v : Working) (l : Latches) (s : State) : State := { s with W := w, V := v, latch := l }

section

variable (w : Schedule) (v : Working) (l : Latches) (s : State)

@[simp] theorem withWork_latch : (withWork w v l s).latch = l := rfl
@[simp] theorem withWork_seq : (withWork w v l s).seq = s.seq := rfl
@[simp] theorem withWork_busy : (withWork w v l s).busy = s.busy := rfl

end

/-- The byte source of a phase's padder run (R100 to R103). -/
def runSource (ph : Phase) (s : State) : Nat → Byte :=
  match ph with
  | .keyHash => engineByte s .key
  | .outerData => serByte s.IS
  | _ => engineByte s .data

/-- What follows a phase's padder run (R105). -/
def afterRun (ph : Phase) : State → State :=
  match ph with
  | .keyHash => goto .keyBlock .fill 0
  | .innerData => saveInnerStep
  | .outerData => goto .store .fill 0
  | _ => afterMessage

/-- The padder runs that begin with `H <- IV` (R93, R100). -/
def opensWithIv (op : Option Instr) (ph : Phase) : Bool := ph == .keyHash || (ph == .msg && op == some .hash)

/-- The phases with a padder run (R105). -/
def runPhases : List Phase := [.keyHash, .innerData, .outerData, .msg]

theorem fillStep_of_run {op : Option Instr} {ph : Phase} (hph : ph ∈ runPhases) {s : State}
    (hseq : s.seq = ⟨op, ph, .fill, 0⟩) : fillStep s =
      fillOr (runSource ph s) (afterRun ph) (if opensWithIv op ph then loadIvAtStart s else s) := by
  cases ph with
  | keyHash | innerData | outerData | msg => simp [fillStep, hseq, runSource, afterRun, opensWithIv]
  | idle | keyBlock | innerKey | outerKey | store => exact absurd hph (by decide)

theorem afterBlock_of_run {s : State} (hph : s.seq.phase ∈ runPhases) (hop : s.seq.op ≠ some .compress) :
    afterBlock s = nextBlock s := by
  unfold afterBlock
  cases hp : s.seq.phase with
  | keyHash | innerData | outerData => rfl
  | msg => exact if_neg hop
  | idle | keyBlock | innerKey | outerKey | store => exact absurd (hp ▸ hph) (by decide)

/-- A block index below the block count does not wrap when it goes up (90_conflicts.md C11). -/
theorem toNat_succ_of_lt {I N : BitVec 56} (h : I.toNat < N.toNat) : (I + 1).toNat = I.toNat + 1 := by
  have hN := N.isLt
  rw [BitVec.toNat_add]
  exact Nat.mod_eq_of_lt (by simp; omega)

/-- `s` stands at the loop's test of a padder run over `L` bytes with offset `O` that has `n` blocks to go (R83). -/
structure AtRun (op : Option Instr) (ph : Phase) (L O n : Nat) (s : State) : Prop where
  busy : s.busy = true
  seq : s.seq = ⟨op, ph, .fill, 0⟩
  phase : ph ∈ runPhases
  notCompress : op ≠ some .compress
  run : RunOk L O .fill s.latch
  left : s.latch.I.toNat + n = nblocks L
  opened : opensWithIv op ph = true → s.latch.I = 0 → s.H = IV

section Run

variable {op : Option Instr} {ph : Phase} {L O n : Nat} {s : State}

theorem AtRun.engineStep (h : AtRun op ph L O n s) :
    engineStep s = fillOr (runSource ph s) (afterRun ph) s := by
  have hload : (if opensWithIv op ph then loadIvAtStart s else s) = s := by
    split
    · unfold loadIvAtStart
      split
      · rw [← h.opened ‹_› ‹_›]
      · rfl
    · rfl
  rw [Machine.engineStep, h.seq]
  rw [fillStep_of_run h.phase h.seq, hload]

/-- With a block to go the loop fills it (R82). -/
theorem AtRun.engineStep_fill (h : AtRun op ph L O (n + 1) s) :
    Machine.engineStep s = fillBlock (runSource ph s) s := by
  have hlt : s.latch.I < s.latch.N := by
    have hN := h.run.blocks
    have hI := h.left
    exact BitVec.lt_def.2 (by omega)
  rw [h.engineStep, fillOr, if_pos hlt]

/-- With no block to go the loop ends (R83). -/
theorem AtRun.engineStep_done (h : AtRun op ph L O 0 s) : Machine.engineStep s = afterRun ph s := by
  have hge : ¬ s.latch.I < s.latch.N := by
    have hN := h.run.blocks
    have hI := h.left
    rw [BitVec.lt_def]
    omega
  rw [h.engineStep, fillOr, if_neg hge]

/-- One block of a run: 115 engine steps that leave `CB` of the state and the block in `H` (R83). -/
theorem AtRun.engineTurns_block (h : AtRun op ph L O (n + 1) s) : ∃ w v c, engineTurns 115 s =
    withWork w v { s.latch with CNT := c, I := s.latch.I + 1 }
      (setHash (CB s.H (paddedBlock (runSource ph s) L O s.latch.I.toNat)) s) := by
  have hstep := h.engineStep_fill
  have hturns := engineTurns_filled s _ h.busy hstep (by simpa [fillBlock] using h.busy) rfl rfl
  rw [afterBlock_of_run (by simp [blockDone, fillBlock, h.seq, h.phase])
    (by simp [blockDone, fillBlock, h.seq, h.notCompress])] at hturns
  refine ⟨(blockDone (fillBlock (runSource ph s) s)).W, (blockDone (fillBlock (runSource ph s) s)).V,
    (fillBlock (runSource ph s) s).latch.CNT, hturns.trans ?_⟩
  simp only [nextBlock, blockDone, fillBlock, goto, withWork, setHash, compressBlock_loadBlock_H, h.seq, h.run.length,
    h.run.offset]

/-- After a block the run stands at its loop's test with one block less to go. -/
theorem AtRun.next (h : AtRun op ph L O (n + 1) s) (S : Hash) (w : Schedule) (v : Working) (c : Size) :
    AtRun op ph L O n (withWork w v { s.latch with CNT := c, I := s.latch.I + 1 } (setHash S s)) := by
  obtain ⟨hbusy, hseq, hph, hop, ⟨hL, hO, hN, -, -⟩, hleft, -⟩ := h
  have hI : (s.latch.I + 1).toNat = s.latch.I.toNat + 1 := toNat_succ_of_lt (N := s.latch.N) (by omega)
  refine ⟨hbusy, hseq, hph, hop, ⟨hL, hO, hN, ?_, fun h => absurd rfl h⟩, ?_, fun _ h0 => ?_⟩
  · rw [withWork_latch, hI]
    omega
  · rw [withWork_latch, hI]
    omega
  · have hzero : (s.latch.I + 1).toNat = 0 := congrArg BitVec.toNat h0
    omega

theorem runSource_withWork (ph : Phase) (S : Hash) (w : Schedule) (v : Working) (l : Latches) (s : State) :
    runSource ph (withWork w v l (setHash S s)) = runSource ph s := by
  cases ph <;> rfl

/-- The blocks of a padder run that are to go, one after the other (R83). -/
theorem AtRun.engineTurns_blocks (h : AtRun op ph L O n s) : ∃ w v l, SameLengths s.latch l ∧
    AtRun op ph L O 0 (engineTurns (115 * n) s) ∧ engineTurns (115 * n) s =
      withWork w v l (setHash (padRunFrom (runSource ph s) L O n s.latch.I.toNat s.H) s) := by
  induction n generalizing s with
  | zero => exact ⟨s.W, s.V, s.latch, ⟨rfl, rfl, rfl⟩, h, rfl⟩
  | succ n ih =>
    obtain ⟨w, v, c, hblock⟩ := h.engineTurns_block
    have hnext := h.next (CB s.H (paddedBlock (runSource ph s) L O s.latch.I.toNat)) w v c
    obtain ⟨w', v', l, hl, hend, hturns⟩ := ih hnext
    have hI : (s.latch.I + 1).toNat = s.latch.I.toNat + 1 := by
      have hleft : (s.latch.I + 1).toNat + n = nblocks L := hnext.left
      have := h.left
      omega
    rw [Nat.mul_succ, Nat.add_comm, engineTurns_add, hblock]
    refine ⟨w', v', l, ⟨hl.olen, hl.klen, hl.dlen⟩, hend, hturns.trans ?_⟩
    simp only [runSource_withWork, withWork_latch, hI]
    rfl

/-- A whole padder run: `PS` of the state it started from stands in `H` when its loop ends (R83). -/
theorem AtRun.runsTo (h : AtRun op ph L O (nblocks L) s) : ∃ w v l, SameLengths s.latch l ∧
    RunsTo (115 * nblocks L + 1) s (afterRun ph (withWork w v l (setHash (PS s.H (runSource ph s) L O) s))) := by
  obtain ⟨w, v, l, hl, hend, hturns⟩ := h.engineTurns_blocks
  have hI : s.latch.I.toNat = 0 := Nat.add_eq_right.1 h.left
  rw [hI, ← PS] at hturns
  rw [hturns] at hend
  exact ⟨w, v, l, hl, (RunsTo.of_busy hend.busy hturns).trans (.one hend.busy hend.engineStep_done)⟩

/-- A padder run that begins with `H <- IV`, whatever stands in `H` before it (R93, R100). -/
theorem AtRun.runsTo_of_opensWithIv (ho : opensWithIv op ph = true)
    (h : AtRun op ph L O (nblocks L) (setHash IV s)) : ∃ w v l, SameLengths s.latch l ∧
    RunsTo (115 * nblocks L + 1) s (afterRun ph (withWork w v l (setHash (PS IV (runSource ph s) L O) s))) := by
  have hsrc : runSource ph (setHash IV s) = runSource ph s := by cases ph <;> rfl
  have hload (u : State) (hu : u.latch.I = 0) : loadIvAtStart u = setHash IV u := if_pos hu
  have hfirst (u : State) (hu : u.seq = s.seq) (hI : u.latch.I = 0) : Machine.engineStep u =
      fillOr (runSource ph u) (afterRun ph) (setHash IV u) := by
    have hseq := hu.trans h.seq
    rw [Machine.engineStep, hseq]
    rw [fillStep_of_run h.phase hseq, if_pos ho, hload u hI]
  have h0 : s.latch.I = 0 := BitVec.eq_of_toNat_eq (Nat.add_eq_right.1 h.left)
  have hstep : Machine.engineStep s = Machine.engineStep (setHash IV s) := by
    rw [hfirst s rfl h0, hfirst (setHash IV s) rfl h0, hsrc]
    rfl
  obtain ⟨w, v, l, hl, hrun⟩ := h.runsTo
  rw [hsrc] at hrun
  exact ⟨w, v, l, hl, .of_engineStep_eq h.busy h.busy hstep hrun⟩

end Run

end Sys2Proof.Machine
end

section
/-! PROOFS. The engine's run of each command from acceptance to completion (R150): it ends in the state the command's
meaning answers, after the turns `engineSteps` counts. -/

namespace Sys2Proof.Machine

/-! ## The commands (R75, R84, R90, R92, R93, R104) -/

theorem finishCurrent_of_op {s : State} {i : Instr} (h : s.seq.op = some i) : finishCurrent s = finish i s := by
  rw [finishCurrent, h]

theorem runsTo_loadIv {s : State} (hb : s.busy = true) (hseq : s.seq = ⟨some .loadIv, .idle, .fill, 0⟩) :
    RunsTo 1 s (runLoadIv s) := by
  have hstep : engineStep s = finishCurrent { s with H := IV } := by simp only [engineStep, hseq, fillStep]
  exact .one hb (hstep.trans (finishCurrent_of_op (by simp only [hseq])))

theorem runsTo_compress {s : State} (hb : s.busy = true) (hseq : s.seq = ⟨some .compress, .msg, .expand, 16⟩) :
    RunsTo 114 s (runCompress s) := by
  have hfeed : RunsTo 113 s _ := .of_busy (by simpa using hb) (engineTurns_toFeed hb (by rw [hseq]) (by rw [hseq]))
  refine hfeed.trans (.one (by simpa using hb) ?_)
  simp [engineStep, feedStep, afterBlock, goto, hseq, finishCurrent, runCompress, compressBlock, finish, markCompleted,
    release]

/-- Phase `STORE` completes a command (R92). -/
theorem runsTo_store {s : State} {i : Instr} (hb : s.busy = true) (hseq : s.seq = ⟨some i, .store, .fill, 0⟩) :
    RunsTo 1 s (finish i (storeDigest s)) := by
  refine .one hb ?_
  rw [engineStep, hseq, fillStep, hseq]
  exact finishCurrent_of_op (by rw [storeDigest_seq, hseq])

/-- What a run worked in is left free at completion (R11, R13, R18). -/
theorem finish_withWork {i : Instr} (hi : runsPadder i = true) (w : Schedule) (v : Working) (l : Latches) (s : State) :
    finish i (withWork w v l s) = finish i s := by
  cases i with
  | process | hash | hmac => rfl
  | loadIv | compress | storeDigest => exact absurd hi (by decide)

theorem runsTo_process {s : State}
    (h : AtRun (some .process) .msg s.latch.DLEN.toNat s.latch.O.toNat (nblocks s.latch.DLEN.toNat) s) :
    RunsTo (115 * nblocks s.latch.DLEN.toNat + 1) s (runProcess s) := by
  obtain ⟨w, v, l, -, hrun⟩ := h.runsTo
  have hafter (u : State) (hu : u.seq.op = some .process) : afterRun .msg u = finish .process u :=
    (if_neg (by rw [hu]; decide)).trans (finishCurrent_of_op hu)
  rw [hafter, finish_withWork rfl] at hrun
  · exact hrun
  · exact congrArg Seq.op h.seq

/-- The store that ends a command with a padder run writes what it would have written without the run's work (R92). -/
theorem runsTo_store_withWork {i : Instr} (hi : runsPadder i = true) (w : Schedule) (v : Working) {l : Latches}
    {s : State} (hb : s.busy = true) (hop : s.seq.op = some i) (hl : SameLengths s.latch l) :
    RunsTo 1 (goto .store .fill 0 (withWork w v l s)) (finish i (storeDigest s)) := by
  have hstored : finish i (storeDigest (goto .store .fill 0 (withWork w v l s))) =
      finish i (withWork w v l (storeDigest s)) := by
    simp only [finish, release, markCompleted, storeDigest, storeOut, goto, withWork, hl.olen]
  rw [← finish_withWork hi w v l, ← hstored]
  exact runsTo_store (by simpa using hb) (by simp [hop])

theorem runsTo_hash {s : State}
    (h : AtRun (some .hash) .msg s.latch.DLEN.toNat 0 (nblocks s.latch.DLEN.toNat) (setHash IV s)) :
    RunsTo (115 * nblocks s.latch.DLEN.toNat + 2) s (runHash s) := by
  obtain ⟨w, v, l, hl, hrun⟩ := h.runsTo_of_opensWithIv rfl
  have hop : s.seq.op = some .hash := congrArg Seq.op h.seq
  have hafter (u : State) (hu : u.seq.op = some .hash) : afterRun .msg u = goto .store .fill 0 u := if_pos hu
  rw [hafter] at hrun
  · exact hrun.trans (runsTo_store_withWork rfl w v h.busy hop hl)
  · exact hop

/-- `PAD_FILL` and its block: `CB` of `IV` and the padded key stands in `H` (R101, R102, R103). -/
theorem engineTurns_padFill {s : State} {p : Byte} (hb : s.busy = true) (hs : engineStep s = padFillStep p s) :
    ∃ w v, engineTurns 115 s =
      afterBlock (goto s.seq.phase .feed 0 (withWork w v s.latch (setHash (CB IV (padKey s.KB p)) s))) := by
  have hturns := engineTurns_filled s _ hb hs (by simpa [padFillStep] using hb) rfl rfl
  refine ⟨(blockDone (padFillStep p s)).W, (blockDone (padFillStep p s)).V, hturns.trans ?_⟩
  simp only [blockDone, padFillStep, goto, withWork, setHash, compressBlock_loadBlock_H]

/-- A pass of `HMAC`: the padded key's block, then a padder run over `L` bytes with offset 64 (R102, R103). -/
theorem runsTo_pass {s : State} {kph dph : Phase} {p : Byte} {L : Nat} (hb : s.busy = true)
    (hseq : s.seq = ⟨some .hmac, kph, .fill, 0⟩) (hs : engineStep s = padFillStep p s)
    (hafter : ∀ u : State, u.seq.phase = kph → u.latch = s.latch → afterBlock u = gotoRun dph L 64 u)
    (hdph : dph ∈ runPhases) (hopen : opensWithIv (some .hmac) dph = false) (hL : L ≤ maxTotal) :
    ∃ w v l, SameLengths s.latch l ∧ RunsTo (115 + (115 * nblocks L + 1)) s (afterRun dph
      (withWork w v l (setHash (PS (CB IV (padKey s.KB p)) (runSource dph s) L 64) (goto dph .fill 0 s)))) := by
  obtain ⟨w, v, hpad⟩ := engineTurns_padFill hb hs
  rw [hafter _ (by simp [hseq]) (by simp)] at hpad
  have hstart : AtRun (some .hmac) dph L 64 (nblocks L)
      (gotoRun dph L 64 (goto s.seq.phase .feed 0 (withWork w v s.latch (setHash (CB IV (padKey s.KB p)) s)))) :=
    { busy := by simpa [gotoRun] using hb
      seq := by simp [gotoRun, hseq]
      phase := hdph
      notCompress := by decide
      run := runOk_beginRun hL (by decide) _
      left := Nat.zero_add _
      opened := fun h => absurd (hopen.symm.trans h) Bool.false_ne_true }
  obtain ⟨w', v', l, hl, hrun⟩ := hstart.runsTo
  refine ⟨w', v', l, ⟨hl.olen, hl.klen, hl.dlen⟩, (RunsTo.of_busy hstart.busy hpad).trans ?_⟩
  have hsrc (S : Hash) : runSource dph (gotoRun dph L 64
      (goto s.seq.phase .feed 0 (withWork w v s.latch (setHash S s)))) = runSource dph s := by
    cases dph <;> rfl
  rw [hsrc] at hrun
  simpa only [withWork, setHash, gotoRun, goto] using hrun

/-- `HMAC` from its outer pass on (R103, R104). -/
theorem runsTo_hmac_of_outerKey {s : State} (hb : s.busy = true)
    (hseq : s.seq = ⟨some .hmac, .outerKey, .fill, 0⟩) :
    RunsTo (115 + (115 + 1) + 1) s (finish .hmac (storeDigest (setHash (outerPass s.KB s.IS) s))) := by
  have hfill : engineStep s = padFillStep opad s := by simp only [engineStep, fillStep, hseq]
  obtain ⟨w, v, l, hl, hrun⟩ := runsTo_pass (dph := .outerData) (L := 32) hb hseq hfill
    (fun u hp _ => by simp only [afterBlock, hp]) (by decide) rfl (by decide)
  exact hrun.trans (runsTo_store_withWork rfl w v (by simpa using hb) (by simp [hseq]) hl)

/-- `HMAC` from its inner pass on (R102 to R104). -/
theorem runsTo_hmac_of_innerKey {s : State} (hb : s.busy = true) (hseq : s.seq = ⟨some .hmac, .innerKey, .fill, 0⟩)
    (hlen : s.latch.DLEN.toNat ≤ maxTotal) {inner : Hash}
    (hinner : inner = innerPass s.KB (engineByte s .data) s.latch.DLEN.toNat) :
    RunsTo (115 + (115 * nblocks s.latch.DLEN.toNat + 1) + (115 + (115 + 1) + 1)) s
      (finish .hmac (storeDigest (setHash (outerPass s.KB inner) { s with IS := inner }))) := by
  have hfill : engineStep s = padFillStep ipad s := by simp only [engineStep, fillStep, hseq]
  obtain ⟨w, v, l, hl, hrun⟩ := runsTo_pass (dph := .innerData) hb hseq hfill
    (fun u hp hu => by simp only [afterBlock, hp, hu]) (by decide) rfl hlen
  have hsaved : afterRun .innerData (withWork w v l (setHash (PS (CB IV (padKey s.KB ipad)) (runSource .innerData s)
      s.latch.DLEN.toNat 64) (goto .innerData .fill 0 s))) =
      goto .outerKey .fill 0 (withWork w v l (setHash inner { s with IS := inner })) := by
    rw [hinner]
    rfl
  rw [hsaved] at hrun
  have houter := runsTo_hmac_of_outerKey
    (s := goto .outerKey .fill 0 (withWork w v l (setHash inner { s with IS := inner }))) (by simpa using hb)
    (by simp [hseq])
  have hwork := hrun.trans houter
  simp only [finish, release, markCompleted, storeDigest, storeOut, goto, withWork, setHash, hl.olen] at hwork
  exact hwork

/-- The engine steps of `HMAC` from phase `KEY_BLOCK` on: the key block, the inner pass, the outer pass and the store. -/
def stepsFromKeyBlock (dlen : Nat) : Nat := 1 + (115 + (115 * nblocks dlen + 1) + (115 + (115 + 1) + 1))

/-- `HMAC` from phase `KEY_BLOCK` on, where the key block becomes `kb` (R100, R104). -/
theorem runsTo_hmac_of_keyBlock {s : State} (hb : s.busy = true) (hseq : s.seq = ⟨some .hmac, .keyBlock, .fill, 0⟩)
    (hlen : s.latch.DLEN.toNat ≤ maxTotal) {kb : Block} {inner : Hash}
    (hkb : kb = if keyBlockBytes < s.latch.KLEN.toNat then keyBlockHashed s.H
      else keyBlockCopied (engineByte s .key) s.latch.KLEN.toNat)
    (hinner : inner = innerPass kb (engineByte s .data) s.latch.DLEN.toNat) :
    RunsTo (stepsFromKeyBlock s.latch.DLEN.toNat) s
      (finish .hmac (storeDigest { s with KB := kb, IS := inner, H := outerPass kb inner })) := by
  have hkey : RunsTo 1 s (goto .innerKey .fill 0 { s with KB := kb }) :=
    .one hb (by simp only [engineStep, fillStep, hseq, keyBlockStep, hkb])
  exact hkey.trans (runsTo_hmac_of_innerKey (s := goto .innerKey .fill 0 { s with KB := kb }) (by simpa using hb)
    (by simp [hseq]) hlen hinner)

/-- `HMAC` with a key that becomes the key block as it is (R100, R104). -/
theorem runsTo_hmac_shortKey {s : State} (hb : s.busy = true) (hseq : s.seq = ⟨some .hmac, .keyBlock, .fill, 0⟩)
    (hlen : s.latch.DLEN.toNat ≤ maxTotal) (hshort : ¬ keyBlockBytes < s.latch.KLEN.toNat) :
    RunsTo (stepsFromKeyBlock s.latch.DLEN.toNat) s (runHmac s) := by
  refine runsTo_hmac_of_keyBlock hb hseq hlen ?_ rfl
  rw [keyBlock, if_neg hshort, if_neg hshort]

/-- `HMAC` with a key that is hashed first (R100, R104). -/
theorem runsTo_hmac_longKey {s : State} (hlen : s.latch.DLEN.toNat ≤ maxTotal)
    (h : AtRun (some .hmac) .keyHash s.latch.KLEN.toNat 0 (nblocks s.latch.KLEN.toNat) (setHash IV s)) :
    RunsTo (115 * nblocks s.latch.KLEN.toNat + 1 + stepsFromKeyBlock s.latch.DLEN.toNat) s (runHmac s) := by
  obtain ⟨w, v, l, hl, hrun⟩ := h.runsTo_of_opensWithIv rfl
  have hop : s.seq.op = some .hmac := congrArg Seq.op h.seq
  have hkb : keyBlock (engineByte s .key) s.latch.KLEN.toNat =
      if keyBlockBytes < l.KLEN.toNat then keyBlockHashed (PS IV (engineByte s .key) s.latch.KLEN.toNat 0)
      else keyBlockCopied (engineByte s .key) l.KLEN.toNat := by
    rw [hl.klen]
    rfl
  have hrest := runsTo_hmac_of_keyBlock
    (s := goto .keyBlock .fill 0 (withWork w v l (setHash (PS IV (engineByte s .key) s.latch.KLEN.toNat 0) s)))
    (by simpa using h.busy) (by simp [hop]) (by simpa [hl.dlen] using hlen) hkb
    (inner := innerPass (keyBlock (engineByte s .key) s.latch.KLEN.toNat) (engineByte s .data) s.latch.DLEN.toNat)
    (by simp only [goto_latch, withWork_latch, hl.dlen]; rfl)
  have hwork := hrun.trans hrest
  simp only [finish, release, markCompleted, storeDigest, storeOut, goto, withWork, setHash, hl.olen, hl.dlen] at hwork
  exact hwork

/-! ## The statement (R150) -/

theorem accept_hmac_of_shortKey {s : State} (h : ¬ keyBlockBytes < s.keyLen.toNat) :
    (accept .hmac s).seq = ⟨some .hmac, .keyBlock, .fill, 0⟩ := by
  simp [accept, enterFirst, latchOperands, h]

theorem accept_hmac_of_longKey {s : State} (h : keyBlockBytes < s.keyLen.toNat) :
    (accept .hmac s).seq = ⟨some .hmac, .keyHash, .fill, 0⟩ ∧ (accept .hmac s).latch.I = 0 := by
  simp [accept, enterFirst, latchOperands, h, beginRun]

/-- `HMAC` runs to its end from acceptance, whether its key is hashed first or not (R104). -/
theorem runsTo_runHmac {s : State} (hl : lengthOk .hmac (latchOperands .hmac s) = true)
    (hpos : PositionOk .hmac s.platform (accept .hmac s).seq (accept .hmac s).latch) :
    RunsTo (engineSteps .hmac (accept .hmac s).latch) (accept .hmac s) (runHmac (accept .hmac s)) := by
  obtain ⟨hdlen, hklen, -⟩ := accept_hmac_latch s
  have hlen : (accept .hmac s).latch.DLEN.toNat ≤ maxTotal := by
    obtain ⟨hle, -⟩ := (lengthOk_hmac s).1 hl
    rw [hdlen]
    exact Nat.le_of_add_right_le hle
  by_cases hlong : keyBlockBytes < s.keyLen.toNat
  · obtain ⟨hseq, hI⟩ := accept_hmac_of_longKey hlong
    have hrun := hpos.run _ _ (by rw [hseq]; rfl)
    rw [hseq] at hrun
    have hsteps : engineSteps .hmac (accept .hmac s).latch =
        115 * nblocks (accept .hmac s).latch.KLEN.toNat + 1 +
          stepsFromKeyBlock (accept .hmac s).latch.DLEN.toNat := by
      simp only [engineSteps, stepsFromKeyBlock, hklen, hlong, if_true]
      omega
    rw [hsteps]
    exact runsTo_hmac_longKey hlen ⟨accept_busy .hmac s, hseq, by decide, by decide, hrun,
      by rw [setHash_latch, hI]; exact Nat.zero_add _, fun _ _ => rfl⟩
  · have hsteps : engineSteps .hmac (accept .hmac s).latch =
        stepsFromKeyBlock (accept .hmac s).latch.DLEN.toNat := by
      simp only [engineSteps, stepsFromKeyBlock, hklen, hlong, if_false]
      omega
    rw [hsteps]
    exact runsTo_hmac_shortKey (accept_busy .hmac s) (accept_hmac_of_shortKey hlong) hlen (by rwa [hklen])

/-- Every accepted command runs to the state its meaning answers, in the turns `engineSteps` counts. -/
theorem runsTo_runCommand (i : Instr) (s : State) (hl : lengthOk i (latchOperands i s) = true)
    (hr : rangeOk i s.platform (latchOperands i s) = true) :
    RunsTo (engineSteps i (accept i s).latch) (accept i s) (runCommand i (accept i s)) := by
  have hpos := accept_positionOk i s hl hr
  cases i with
  | loadIv => exact runsTo_loadIv rfl rfl
  | compress => exact runsTo_compress rfl rfl
  | storeDigest => exact runsTo_store rfl rfl
  | process =>
    exact runsTo_process
      ⟨rfl, rfl, by decide, by decide, hpos.run _ _ rfl, Nat.zero_add _, fun h => absurd h (by decide)⟩
  | hash =>
    exact runsTo_hash ⟨rfl, rfl, by decide, by decide, hpos.run _ _ rfl, Nat.zero_add _, fun _ _ => rfl⟩
  | hmac => exact runsTo_runHmac hl hpos

/-- Settles O58: acceptance starts the run that `engineSteps` counts. -/
theorem atomicCommandIsTheEngineRun : Obligations.AtomicCommandIsTheEngineRun := by
  intro i s a hb ha hbusy
  have haccept : lengthOk i (latchOperands i s) = true ∧ rangeOk i s.platform (latchOperands i s) = true ∧
      isIdle s = true ∧ a = accept i s := by
    rcases issue_next ha with rfl | ⟨c, rfl⟩ | ⟨hidle, hl, hr, rfl⟩
    · exact absurd (hb.symm.trans hbusy) Bool.false_ne_true
    · exact absurd ((raise_busy c s).symm.trans hbusy) Bool.false_ne_true
    · exact ⟨hl, hr, hidle, rfl⟩
  obtain ⟨hl, hr, hidle, rfl⟩ := haccept
  have hrun := runsTo_runCommand i s hl hr
  have hexec : exec i s = .next (engineTurns (engineSteps i (accept i s).latch) (accept i s)) := by
    rw [exec_eq_issue, issue_accepted i _ s hidle hl hr, hrun.turns]
  refine ⟨hexec, hrun.busy, fun n t ht => ?_⟩
  obtain rfl := Host.Outcome.next.inj (hexec.symm.trans ht)
  rw [newOutByte, accept_seq_op]

end Sys2Proof.Machine
end

section
/-! PROOFS. Every command in flight completes (R19, R153): each engine step completes the command or lowers a bound on
the steps that are left. -/

namespace Sys2Proof.Machine

/-! ## A bound on the engine steps left -/

/-- The phases that may follow, in the order of the table of R105. -/
def phasesLeft : Phase → Nat
  | .keyHash => 7
  | .keyBlock => 6
  | .innerKey => 5
  | .innerData => 4
  | .outerKey => 3
  | .outerData => 2
  | .msg => 2
  | .store => 1
  | .idle => 0

/-- The engine steps to the end of the block at hand, its `FILL` included (R70 to R73). -/
def blockStepsLeft : EngineStep → Nat → Nat
  | .fill, _ => 115
  | .expand, t => 130 - t
  | .init, _ => 66
  | .round, t => 65 - t
  | .feed, _ => 1

/-- A bound that falls with every engine step: the phases count most, then the blocks of the run, then the steps of the
block. -/
def stepsBound (s : State) : Nat :=
  phasesLeft s.seq.phase * 2 ^ 64 + (s.latch.N.toNat - s.latch.I.toNat) * 128 + blockStepsLeft s.seq.step s.seq.t

theorem blockStepsLeft_le (st : EngineStep) (t : Nat) : blockStepsLeft st t ≤ 130 := by
  cases st <;> simp only [blockStepsLeft] <;> omega

/-- From `s` to `t` the command completes, or it stays in flight and the bound falls. -/
def Progress (s t : State) : Prop :=
  (t.busy = false ∧ t.done = true) ∨ (t.busy = true ∧ stepsBound t < stepsBound s)

theorem Progress.finishCurrent (s u : State) : Progress s (finishCurrent u) := by
  unfold Machine.finishCurrent
  cases u.seq.op <;> exact .inl ⟨rfl, rfl⟩

section Moves

variable {s t : State} (hb : t.busy = true)
include hb

/-- A phase further down the table is entered. -/
theorem Progress.of_phase (ph : Phase) (hph : t.seq.phase = ph) (hlt : phasesLeft ph < phasesLeft s.seq.phase) :
    Progress s t := by
  subst hph
  refine .inr ⟨hb, ?_⟩
  have hblocks := t.latch.N.isLt
  have hsteps := blockStepsLeft_le t.seq.step t.seq.t
  unfold stepsBound
  omega

/-- The sequencer moves on within its block. -/
theorem Progress.of_step (hph : t.seq.phase = s.seq.phase) (hN : t.latch.N = s.latch.N) (hI : t.latch.I = s.latch.I)
    (hst : blockStepsLeft t.seq.step t.seq.t < blockStepsLeft s.seq.step s.seq.t) : Progress s t := by
  refine .inr ⟨hb, ?_⟩
  rw [stepsBound, stepsBound, hph, hN, hI]
  omega

end Moves

/-! ## The engine's steps -/

section Steps

variable {i : Instr} {s : State}

theorem Progress.fillOr {u : State} (hb : u.busy = true) (hs : s.seq.step = .fill) (hseq : u.seq = s.seq)
    (hlatch : u.latch = s.latch) (src : Nat → Byte) {after : State → State} (hafter : Progress s (after u)) :
    Progress s (fillOr src after u) := by
  unfold Machine.fillOr
  split
  · refine .of_step ?_ ?_ ?_ ?_ ?_
    · simpa [fillBlock] using hb
    · simp [fillBlock, hseq]
    · simp [fillBlock, hlatch]
    · simp [fillBlock, hlatch]
    · simp [fillBlock, hs, blockStepsLeft]
  · exact hafter

theorem Progress.padFillStep (hb : s.busy = true) (hs : s.seq.step = .fill) (p : Byte) :
    Progress s (padFillStep p s) :=
  .of_step (by simpa [Machine.padFillStep] using hb) rfl rfl rfl (by simp [Machine.padFillStep, hs, blockStepsLeft])

theorem Progress.afterMessage {u : State} (hb : u.busy = true) (hp : s.seq.phase = .msg) :
    Progress s (afterMessage u) := by
  unfold Machine.afterMessage
  split
  · exact .of_phase (by simpa using hb) .store rfl (by rw [hp]; decide)
  · exact .finishCurrent s u

theorem loadIvAtStart_busy (s : State) : (loadIvAtStart s).busy = s.busy := by
  unfold loadIvAtStart
  split <;> rfl

theorem loadIvAtStart_latch (s : State) : (loadIvAtStart s).latch = s.latch := by
  unfold loadIvAtStart
  split <;> rfl

theorem Progress.fillStep (hb : s.busy = true) (hs : s.seq.step = .fill) : Progress s (fillStep s) := by
  have hload : (loadIvAtStart s).busy = true := (loadIvAtStart_busy s).trans hb
  unfold Machine.fillStep
  cases hp : s.seq.phase with
  | idle => exact .finishCurrent s _
  | keyHash =>
    exact .fillOr hload hs (loadIvAtStart_seq s) (loadIvAtStart_latch s) _
      (.of_phase (by simpa using hload) .keyBlock rfl (by rw [hp]; decide))
  | keyBlock =>
    exact .of_phase (t := keyBlockStep s) (by simpa [keyBlockStep] using hb) .innerKey rfl (by rw [hp]; decide)
  | innerKey => exact .padFillStep hb hs ipad
  | innerData =>
    exact .fillOr hb hs rfl rfl _ (.of_phase (by simpa [saveInnerStep] using hb) .outerKey rfl (by rw [hp]; decide))
  | outerKey => exact .padFillStep hb hs opad
  | outerData => exact .fillOr hb hs rfl rfl _ (.of_phase (by simpa using hb) .store rfl (by rw [hp]; decide))
  | msg =>
    simp only
    split
    · exact .fillOr hload hs (loadIvAtStart_seq s) (loadIvAtStart_latch s) _ (.afterMessage hload hp)
    · exact .fillOr hb hs rfl rfl _ (.afterMessage hb hp)
  | store => exact .finishCurrent s _

theorem Progress.expandStep (hb : s.busy = true) (hs : s.seq.step = .expand) (ht : s.seq.t < 64) :
    Progress s (expandStep s) := by
  unfold Machine.expandStep
  simp only
  split
  · exact .of_step (by simpa using hb) rfl rfl rfl (by simp only [goto_seq, hs, blockStepsLeft]; omega)
  · exact .of_step (by simpa using hb) rfl rfl rfl (by simp only [goto_seq, hs, blockStepsLeft]; omega)

theorem Progress.initStep (hb : s.busy = true) (hs : s.seq.step = .init) : Progress s (initStep s) :=
  .of_step (by simpa [Machine.initStep] using hb) rfl rfl rfl (by simp [Machine.initStep, hs, blockStepsLeft])

theorem Progress.roundStep (hb : s.busy = true) (hs : s.seq.step = .round) (ht : s.seq.t < 64) :
    Progress s (roundStep s) := by
  unfold Machine.roundStep
  simp only
  split
  · exact .of_step (by simpa using hb) rfl rfl rfl (by simp only [goto_seq, hs, blockStepsLeft]; omega)
  · exact .of_step (by simpa using hb) rfl rfl rfl (by simp only [goto_seq, hs, blockStepsLeft]; omega)

theorem Progress.gotoRun {u : State} (hb : u.busy = true) {ph : Phase} (hlt : phasesLeft ph < phasesLeft s.seq.phase)
    (L O : Nat) : Progress s (gotoRun ph L O u) :=
  .of_phase (by simpa [Machine.gotoRun] using hb) ph rfl hlt

/-- After a block of a run one block less is to go (R83). -/
theorem Progress.nextBlock {u : State} (hb : u.busy = true) (hseq : u.seq = s.seq) (hlatch : u.latch = s.latch)
    (hs : s.seq.step = .feed) (hI : s.latch.I.toNat < s.latch.N.toNat) : Progress s (nextBlock u) := by
  have hsucc := toNat_succ_of_lt hI
  refine .inr ⟨by simpa [Machine.nextBlock] using hb, ?_⟩
  simp only [stepsBound, Machine.nextBlock, goto_seq, goto_latch, hseq, hlatch, hsucc, hs, blockStepsLeft]
  omega

/-- Where a padder run is on, a block is pending while it is being compressed (R83). -/
theorem InFlight.pending (h : InFlight i s) (hs : s.seq.step ≠ .fill) {r : Nat × Nat}
    (hr : runOf i s.seq.phase s.latch = some r) : s.latch.I.toNat < s.latch.N.toNat := by
  have hrun := h.position.run r.1 r.2 hr
  rw [hrun.blocks]
  exact hrun.pending hs

theorem InFlight.feedStep_progress (h : InFlight i s) (hs : s.seq.step = .feed) : Progress s (feedStep s) := by
  have hb := h.busy
  have hpending {r : Nat × Nat} (hr : runOf i s.seq.phase s.latch = some r) : s.latch.I.toNat < s.latch.N.toNat :=
    h.pending (hs ▸ EngineStep.noConfusion) hr
  have hph := h.position.phase
  have hop := h.position.op
  unfold feedStep Machine.afterBlock
  simp only
  cases hp : s.seq.phase with
  | idle | keyBlock | store => exact .finishCurrent s _
  | innerKey => exact .gotoRun hb (by rw [hp]; decide) _ _
  | outerKey => exact .gotoRun hb (by rw [hp]; decide) _ _
  | keyHash | innerData | outerData => exact .nextBlock hb rfl rfl hs (hpending (by rw [hp]; rfl))
  | msg =>
    simp only
    split
    · exact .finishCurrent s _
    · refine .nextBlock hb rfl rfl hs ?_
      rw [hp] at hpending hph
      cases i with
      | process | hash => exact hpending rfl
      | compress => exact absurd hop ‹_›
      | loadIv | storeDigest | hmac => exact absurd hph (by decide)

theorem InFlight.engineStep_progress (h : InFlight i s) : Progress s (Machine.engineStep s) := by
  have hcounter := h.position.counter
  unfold Machine.engineStep
  cases hs : s.seq.step with
  | fill => exact .fillStep h.busy hs
  | expand =>
    obtain ⟨-, ht⟩ : 16 ≤ s.seq.t ∧ s.seq.t < 64 := by rwa [hs] at hcounter
    exact .expandStep h.busy hs ht
  | init => exact .initStep h.busy hs
  | round => exact .roundStep h.busy hs (by rwa [hs] at hcounter)
  | feed => exact h.feedStep_progress hs

end Steps

/-! ## The statement (R153) -/

/-- Settles O59, by induction on the bound: each turn completes the command or leaves a legal state with a smaller
bound. -/
theorem everyAcceptedCommandCompletes : Obligations.EveryAcceptedCommandCompletes := by
  intro s h hb
  induction hn : stepsBound s using Nat.strong_induction_on generalizing s with
  | _ n ih =>
    obtain ⟨i, hi⟩ := h.inFlight hb
    have hturn : engineTurn s = engineStep s := if_pos hb
    have hlegal : Legal (engineStep s) := hi.engineStep
    rcases hi.engineStep_progress with ⟨hbusy, hdone⟩ | ⟨hbusy, hlt⟩
    · refine ⟨1, ?_⟩
      obtain ⟨⟨-, hfault, -⟩, -⟩ := hlegal
      rw [engineTurns, engineTurns, hturn]
      refine ⟨hbusy, hdone, ?_⟩
      by_contra hf
      obtain ⟨-, hnd, -⟩ := hfault (by simpa using hf)
      exact Bool.false_ne_true (hnd.symm.trans hdone)
    · obtain ⟨k, hk⟩ := ih _ (hn ▸ hlt) _ hlegal hbusy rfl
      refine ⟨k + 1, ?_⟩
      rw [engineTurns, hturn]
      exact hk

end Sys2Proof.Machine
end
